-- ==== Sys2Proof/Word.lean ====
section
/-! DEFINITION. The machine's word types (spec/00_scope.md rules R10, R11). -/

namespace Sys2Proof

/-- `u32`: a command word, an operand word, a counter, a response value (R11, R110). -/
abbrev Word := BitVec 32

/-- `u8`: one element of the framebuffer memory (R11, R80). -/
abbrev Byte := BitVec 8

/-- `u12`: one element of the sample memory (R11, R71). -/
abbrev Sample := BitVec 12

end Sys2Proof
end

