-- ==== Sys2Proof/Config.lean ====
section
/-! DEFINITION. The parameters this hardware fixes (spec/00_scope.md rule R6) and the one value the spec leaves
undefined. Every rule is written in terms of these names, never of the literals (R7). -/

namespace Sys2Proof

/-- `N`, the half size of each audio buffer, in samples (R6, R7). -/
def Config.N : Nat := 2048

/-- `BUF_LEN` = `2N`, the length of each of the two circular sample buffers (R6). -/
def Config.bufLen : Nat := 2 * Config.N

/-- `NUM_CH`: the audio channels, LEFT and RIGHT (R6). -/
def Config.numCh : Nat := 2

/-- `LEFT_BASE`: the `SMP` element address of `left[0]` (R70, R76). -/
def Config.leftBase : Nat := 0

/-- `RIGHT_BASE`: the `SMP` element address of `right[0]` (R70, R76). -/
def Config.rightBase : Nat := 4096

/-- The number of elements of the sample memory `SMP` (R13, R70). -/
def Config.smpSize : Nat := 8192

/-- `SILENCE`: the DAC midpoint (R6, R75). -/
def Config.silence : Sample := 0x800

/-- `NUM_FB`: the number of framebuffers (R6). -/
def Config.numFb : Nat := 3

/-- `FB_SIZE`: bytes per framebuffer (R6). -/
def Config.fbSize : Nat := 1024

/-- The number of elements of the framebuffer memory `FB` (R13, R80). -/
def Config.fbMemSize : Nat := Config.numFb * Config.fbSize

/-- `INIT_RENDER`: the initial render slot (R6, R190). -/
def Config.initRender : Fin 3 := 0

/-- `INIT_READY`: the initial ready slot (R6, R190). -/
def Config.initReady : Fin 3 := 2

/-- `INIT_TRANSFER`: the initial transfer slot (R6, R190). -/
def Config.initTransfer : Fin 3 := 1

/-- `DEFAULT_MAX_DRIFT`: the drift band when 0 is passed to SYN_INIT (R6, R38). -/
def Config.defaultMaxDrift : Word := 2

/-- `DEFAULT_SAMPLE_RATE` in Hz (R6, R280). No operation reads it: the rate is an operand of SYN_INIT. -/
def Config.defaultSampleRate : Word := 32000

/-- The quotient of an audio sample count by `samples_per_frame = 0`. R224 defines the audio frame index "only when
`syn.samples_per_frame >= 1`", and SYN_DECIDE divides without a test because in RUNNING the divisor is never 0
(R225, R37). In a state no run reaches (RUNNING with divisor 0) the quotient is this FREE VALUE: it has no body, so
nothing can be proved of it. Log entry 10, DESIGN CHOICE, safe. -/
opaque Config.noQuotient : Word → Word

end Sys2Proof
end

