-- ==== Sys2Proof/Syntax.lean ====
section
/-! DEFINITION. The operations of the block, one constructor per row of spec/opcode_table.json (spec/30_encoding.md
rule R118), with each operand at the width its format gives it (R111 to R115), and the two ports (R110). -/

namespace Sys2Proof

/-- The two ports that carry operations into the block (R8, R110, R278). -/
inductive Port where
  /-- `FG`: the foreground. -/
  | fg
  /-- `EV`: the events. -/
  | ev
deriving DecidableEq, Repr

/-- The 35 operations (R118). -/
inductive Instr where
  /-- AUD_INIT `attach` (R150). -/
  | audInit (attach : Bool)
  /-- AUD_START (R151). -/
  | audStart
  /-- AUD_STOP (R152). -/
  | audStop
  /-- AUD_NEEDS_REFILL (R153). -/
  | audNeedsRefill
  /-- AUD_GET_FILL_HALF (R154). -/
  | audGetFillHalf
  /-- AUD_FILLED (R155). -/
  | audFilled
  /-- AUD_GET_LBUF (R156). -/
  | audGetLbuf
  /-- AUD_GET_RBUF (R157). -/
  | audGetRbuf
  /-- SMP_WRL `idx, val` (R158). -/
  | smpWrl (idx : BitVec 12) (val : Sample)
  /-- SMP_WRR `idx, val` (R159). -/
  | smpWrr (idx : BitVec 12) (val : Sample)
  /-- SMP_RDL `idx` (R160). -/
  | smpRdl (idx : BitVec 12)
  /-- SMP_RDR `idx` (R161). -/
  | smpRdr (idx : BitVec 12)
  /-- DSP_INIT (R190). -/
  | dspInit
  /-- DSP_GET_RENDER (R191). -/
  | dspGetRender
  /-- DSP_SWAP (R192). -/
  | dspSwap
  /-- DSP_HAS_FRAME (R193). -/
  | dspHasFrame
  /-- DSP_START_XFER (R194). -/
  | dspStartXfer
  /-- DSP_GET_XFER (R195). -/
  | dspGetXfer
  /-- FB_WR `addr, byte` (R196). -/
  | fbWr (addr : BitVec 12) (byte : Byte)
  /-- FB_RD `addr` (R197). -/
  | fbRd (addr : BitVec 12)
  /-- SYN_INIT `w1, w2, w3` = sample rate, video fps, max drift frames (R220). -/
  | synInit (rate fps maxDrift : Word)
  /-- SYN_START (R221). -/
  | synStart
  /-- SYN_STOP (R222). -/
  | synStop
  /-- SYN_DECIDE (R225). -/
  | synDecide
  /-- SYN_RENDERED (R226). -/
  | synRendered
  /-- SYN_SKIPPED (R227). -/
  | synSkipped
  /-- SYN_AFRAME (R228). -/
  | synAframe
  /-- RDREG `reg` (R250). -/
  | rdreg (reg : BitVec 8)
  /-- TRIG (R163). -/
  | trig
  /-- AUD_HT (R164). -/
  | audHt
  /-- AUD_TC (R165). -/
  | audTc
  /-- AUD_ERR (R166). -/
  | audErr
  /-- DSP_DONE (R199). -/
  | dspDone
  /-- SYN_TICK `cnt` (R223). -/
  | synTick (cnt : BitVec 24)
  /-- XFER_RD `off` (R198). -/
  | xferRd (off : BitVec 10)
deriving DecidableEq, Repr

end Sys2Proof
end

