-- ==== Sys2Proof/Machine/State.lean ====
section
/-! DEFINITION. The state of the machine as plain data: every register and memory of spec/10_state.md, and the block's
ports (the commands presented and not yet taken, the responses given, the DAC records emitted); the reasons a step can
stop; the state after reset. -/

namespace Sys2Proof.Machine

/-- `aud.state`, the audio lifecycle state (R22). All four codes are legal. -/
inductive AudState where
  | reset
  | ready
  | playing
  | error
deriving DecidableEq, Repr

/-- `aud.fill_half`: FIRST is indices `[0, N)`, SECOND is `[N, 2N)` (R24, R72). -/
inductive Half where
  | first
  | second
deriving DecidableEq, Repr

/-- `syn.state`, the synchroniser lifecycle state (R34). -/
inductive SynState where
  | reset
  | ready
  | running
  | stopped
deriving DecidableEq, Repr

/-- The status of a response (R260). -/
inductive Status where
  /-- The operation was performed. -/
  | ok
  /-- An operand is outside what the operation accepts. -/
  | invalidParam
  /-- The operation is not valid in the current lifecycle state or busy state. -/
  | badState
  /-- The command matches no operation of the port it arrived on. -/
  | illegalOp
deriving DecidableEq, Repr

/-- The answer of SYN_DECIDE (R225). -/
inductive Decision where
  | renderFrame
  | skipFrame
  | repeatFrame
  | notStarted
deriving DecidableEq, Repr

/-- The AUD unit's registers (R22 to R29). -/
structure Aud where
  /-- `aud.state` (R22). -/
  state : AudState
  /-- `aud.needs_refill` (R23). -/
  needsRefill : Bool
  /-- `aud.fill_half` (R24). -/
  fillHalf : Half
  /-- `aud.sync_attached` (R25). -/
  syncAttached : Bool
  /-- `aud.samples_played` (R26). -/
  samplesPlayed : Word
  /-- `aud.refill_count` (R27). -/
  refillCount : Word
  /-- `aud.underrun_count` (R28). -/
  underrunCount : Word
  /-- `aud.pos`, the sequencing register (R29). -/
  pos : BitVec 12
deriving DecidableEq, Repr

/-- A slot number: one of the three framebuffers 0, 1, 2 (R17). A role register is 2 bits wide and "the value 3 is
never written by any operation" (R30): log entry 11, DEDUCED. -/
abbrev Slot := Fin 3

/-- The DSP unit's registers (R30 to R33). -/
structure Dsp where
  /-- `dsp.render` (R30). -/
  render : Slot
  /-- `dsp.ready` (R30). -/
  ready : Slot
  /-- `dsp.transfer` (R30). -/
  transfer : Slot
  /-- `dsp.transfer_busy` (R31). -/
  transferBusy : Bool
  /-- `dsp.frames_rendered` (R32). -/
  framesRendered : Word
  /-- `dsp.frames_transferred` (R33). -/
  framesTransferred : Word
deriving DecidableEq, Repr

/-- The SYN unit's registers (R34 to R44). -/
structure Syn where
  /-- `syn.state` (R34). -/
  state : SynState
  /-- `syn.sample_rate` (R35). -/
  sampleRate : Word
  /-- `syn.video_fps` (R36). -/
  videoFps : Word
  /-- `syn.samples_per_frame` (R37). -/
  samplesPerFrame : Word
  /-- `syn.max_drift_frames` (R38). -/
  maxDriftFrames : Word
  /-- `syn.audio_samples_played` (R39). -/
  audioSamplesPlayed : Word
  /-- `syn.video_frames_rendered` (R40). -/
  videoFramesRendered : Word
  /-- `syn.frames_skipped` (R41). -/
  framesSkipped : Word
  /-- `syn.frames_repeated` (R42). -/
  framesRepeated : Word
  /-- `syn.max_drift`, an `i32` held as its two's-complement bit pattern (R43, R45). -/
  maxDrift : Word
  /-- `syn.min_drift`, an `i32` held as its two's-complement bit pattern (R44, R45). -/
  minDrift : Word
deriving DecidableEq, Repr

/-- A memory of `w`-bit elements in canonical form: (address, element) pairs, addresses strictly rising, no entry
equal to 0, which is what an unlisted address reads as (R50: every element of `SMP` and `FB` is 0 after reset).
`Mem 8` is a list of `Host.Cell`. Log entry 12, DEDUCED. -/
abbrev Mem (w : Nat) := List (Nat × BitVec w)

/-- One response: the port the command arrived on, the status and the value (R14, R121). -/
structure Response where
  port : Port
  status : Status
  value : Word
deriving DecidableEq, Repr

/-- One record `Dac(l, r)` of the DAC output stream (R14, R285). -/
structure DacRecord where
  left : Sample
  right : Sample
deriving DecidableEq, Repr

/-- What reaches the block at one instant. The list of instants is the order in which things reach the block, which the
spec leaves free (R9, R94, R317): log entry 2, DESIGN CHOICE. -/
inductive Due where
  /-- The external reset (R300). -/
  | reset
  /-- The next `ev` commands of port EV and the next `fg` commands of port FG, due at the same instant (R276). -/
  | commands (ev fg : Nat)
deriving DecidableEq, Repr

/-- The state: the block's state (R20), and its ports. -/
structure State where
  /-- The AUD registers. -/
  aud : Aud
  /-- The DSP registers. -/
  dsp : Dsp
  /-- The SYN registers. -/
  syn : Syn
  /-- The sample memory `SMP`: 8192 elements of 12 bits (R52, R70). -/
  smp : Mem 12
  /-- The framebuffer memory `FB`: 3072 elements of 8 bits (R52, R80). -/
  fb : Mem 8
  /-- The words presented on port FG and not yet taken, oldest first (R110, R120). The model's own field: entry 1. -/
  fgIn : List Word
  /-- The words presented on port EV and not yet taken, oldest first. The model's own field: entry 1. -/
  evIn : List Word
  /-- What reaches the block, next instant first. The model's own field: entry 2. -/
  due : List Due
  /-- The responses given, oldest first (R121). The model's own field: entry 5. -/
  responses : List Response
  /-- The DAC output stream, oldest record first (R285). The model's own field: entry 6. -/
  dac : List DacRecord
deriving DecidableEq, Repr

/-- The reasons a step can stop with a fault: none. The block has no fault: an operation that cannot be performed is
a rejection, which answers a status and changes nothing (R261), and an event cannot fail half done (R275). Nothing
raises a fault, which is safe: there is no behaviour this leaves out. -/
inductive Fault where
deriving DecidableEq, Repr

/-- The reasons the model gives an instruction no meaning. -/
inductive Refusal where
  /-- Raised by an arm of `exec` whose instruction has no meaning yet; safe, since nothing is claimed of it. No arm of
  this model raises it: every instruction has its meaning. -/
  | notModelled (mnemonic : String)
deriving DecidableEq, Repr

/-- The outcome of one operation. -/
abbrev Answer := Host.Outcome State Fault Refusal

/-- The AUD registers after reset (R50). -/
def Aud.atReset : Aud where
  state := .reset
  needsRefill := false
  fillHalf := .first
  syncAttached := false
  samplesPlayed := 0
  refillCount := 0
  underrunCount := 0
  pos := 0

/-- The DSP registers after reset (R50). -/
def Dsp.atReset : Dsp where
  render := Config.initRender
  ready := Config.initReady
  transfer := Config.initTransfer
  transferBusy := false
  framesRendered := 0
  framesTransferred := 0

/-- The SYN registers after reset (R50). -/
def Syn.atReset : Syn where
  state := .reset
  sampleRate := 0
  videoFps := 0
  samplesPerFrame := 0
  maxDriftFrames := 0
  audioSamplesPlayed := 0
  videoFramesRendered := 0
  framesSkipped := 0
  framesRepeated := 0
  maxDrift := 0
  minDrift := 0

/-- The machine right after reset (R50, R300): every register at its reset value, every memory element 0 (nothing
listed), nothing presented at the ports, nothing answered and nothing emitted. -/
def State.reset : State where
  aud := Aud.atReset
  dsp := Dsp.atReset
  syn := Syn.atReset
  smp := []
  fb := []
  fgIn := []
  evIn := []
  due := []
  responses := []
  dac := []

end Sys2Proof.Machine
end

