-- ==== Sys2Proof/Machine/Operands.lean ====
section
/-! DEFINITION. How operands become element addresses, counts and offsets (spec/30_encoding.md rule R116,
spec/20_memory.md rules R70, R77, R80, R81), and the codes and layouts software sees (spec/10_state.md rule R45,
spec/60_exceptions.md rule R260, spec/30_encoding.md rule R121). -/

namespace Sys2Proof.Machine

/-- `zext_32` (R11). -/
def zext32 {w : Nat} (v : BitVec w) : Word := v.setWidth 32

/-- A boolean result: 0 for false, 1 for true (R121). -/
def boolWord (b : Bool) : Word := if b then 1 else 0

/-! ## Sample memory (R70, R116) -/

/-- A sample index is in range when it is below `2N` (R158). -/
def idxInRange (idx : BitVec 12) : Bool := decide (idx.toNat < Config.bufLen)

/-- The `SMP` element address of `left[idx]` (R70, R116). -/
def leftAddr (idx : BitVec 12) : Nat := Config.leftBase + idx.toNat

/-- The `SMP` element address of `right[idx]`: `4096 + idx` (R70, R116). -/
def rightAddr (idx : BitVec 12) : Nat := Config.rightBase + idx.toNat

/-- The first index of a half, the write offset of a refill: 0 for FIRST, `N` for SECOND (R72, R77). -/
def halfOffset (h : Half) : Nat :=
  match h with
  | .first => 0
  | .second => Config.N

/-- The half a sample index lies in (R72). -/
def halfOfIndex (i : Nat) : Half := if i < Config.N then .first else .second

/-- The position after `p`: `(p + 1) mod 2N` (R29, R163). -/
def nextPos (p : BitVec 12) : BitVec 12 := BitVec.ofNat 12 ((p.toNat + 1) % Config.bufLen)

/-- The count an audio event forwards to the synchroniser: `N`, as the 24-bit operand of SYN_TICK (R162, R223). -/
def tickOfHalf : BitVec 24 := BitVec.ofNat 24 Config.N

/-! ## Framebuffer memory (R80, R81, R116) -/

/-- An `FB` element address is in range when it is below 3072 (R80, R196). -/
def fbAddrInRange (addr : BitVec 12) : Bool := decide (addr.toNat < Config.fbMemSize)

/-- The `FB` base address of a slot: `1024 * slot` (R80, R81). -/
def slotBase (slot : Slot) : Nat := Config.fbSize * slot.val

/-- The `FB` element address an XFER_RD reads: `1024 * dsp.transfer + off` (R116, R198). -/
def xferAddr (d : Dsp) (off : BitVec 10) : Nat := slotBase d.transfer + off.toNat

/-! ## Codes (R22, R24, R34, R225, R260) -/

/-- The code of `aud.state` (R22). -/
def AudState.code : AudState → BitVec 2
  | .reset => 0
  | .ready => 1
  | .playing => 2
  | .error => 3

/-- The code of `aud.fill_half` (R24). -/
def Half.code : Half → BitVec 1
  | .first => 0
  | .second => 1

/-- The code of `syn.state` (R34). -/
def SynState.code : SynState → BitVec 2
  | .reset => 0
  | .ready => 1
  | .running => 2
  | .stopped => 3

/-- The code of a role register: the slot number in two bits (R30). -/
def slotCode (slot : Slot) : BitVec 2 := BitVec.ofNat 2 slot.val

/-- The decision code SYN_DECIDE returns (R225). -/
def Decision.code : Decision → Word
  | .renderFrame => 0
  | .skipFrame => 1
  | .repeatFrame => 2
  | .notStarted => 3

/-- The status code of a response (R260). -/
def Status.code : Status → BitVec 8
  | .ok => 0x00
  | .invalidParam => 0x01
  | .badState => 0x02
  | .illegalOp => 0x03

/-- A response as two 32-bit words: `zext_32(status)`, then `value` (R121). -/
def Response.words (r : Response) : List Word := [zext32 r.status.code, r.value]

/-! ## Registers by number (R45) -/

/-- The value RDREG returns for a register number, laid out as R45 says; none for an unlisted number. `aud.pos` has no
number. -/
def registerValue (reg : BitVec 8) (s : State) : Option Word :=
  match reg.toNat with
  | 0x00 => some (0#30 ++ s.aud.state.code)
  | 0x01 => some (0#29 ++ BitVec.ofBool s.aud.syncAttached ++ s.aud.fillHalf.code ++ BitVec.ofBool s.aud.needsRefill)
  | 0x02 => some s.aud.samplesPlayed
  | 0x03 => some s.aud.refillCount
  | 0x04 => some s.aud.underrunCount
  | 0x10 => some (0#26 ++ slotCode s.dsp.transfer ++ slotCode s.dsp.ready ++ slotCode s.dsp.render)
  | 0x11 => some (0#31 ++ BitVec.ofBool s.dsp.transferBusy)
  | 0x12 => some s.dsp.framesRendered
  | 0x13 => some s.dsp.framesTransferred
  | 0x20 => some (0#30 ++ s.syn.state.code)
  | 0x21 => some s.syn.sampleRate
  | 0x22 => some s.syn.videoFps
  | 0x23 => some s.syn.samplesPerFrame
  | 0x24 => some s.syn.maxDriftFrames
  | 0x25 => some s.syn.audioSamplesPlayed
  | 0x26 => some s.syn.videoFramesRendered
  | 0x27 => some s.syn.framesSkipped
  | 0x28 => some s.syn.framesRepeated
  | 0x29 => some s.syn.maxDrift
  | 0x2A => some s.syn.minDrift
  | _ => none

end Sys2Proof.Machine
end

