-- ==== Sys2Proof/Machine/Flags.lean ====
section
/-! DEFINITION. Every write of the block's three flags (spec/10_state.md rule R46): `aud.needs_refill` with
`aud.fill_half`, and `dsp.transfer_busy`; and the underrun test, which reads a flag before an event sets it
(spec/40_audio.md rule R162). No arithmetic of the block records a carry, overflow, zero or sign anywhere (R46). -/

namespace Sys2Proof.Machine

/-- An audio event asks for half `h`: `aud.fill_half <- h`, `aud.needs_refill <- true` (R162). -/
def Aud.requestRefill (a : Aud) (h : Half) : Aud := { a with fillHalf := h, needsRefill := true }

/-- The foreground's acknowledgement clears `aud.needs_refill` (R155). -/
def Aud.clearRefill (a : Aud) : Aud := { a with needsRefill := false }

/-- The underrun test: an audio event that finds `aud.needs_refill` still true adds 1 to `aud.underrun_count`
(R28, R162; spec/90_conflicts.md C2: at both events). -/
def Aud.countUnderrun (a : Aud) : Aud :=
  if a.needsRefill then { a with underrunCount := a.underrunCount + 1 } else a

/-- A started transfer sets `dsp.transfer_busy` (R194). -/
def Dsp.setBusy (d : Dsp) : Dsp := { d with transferBusy := true }

/-- A completed transfer clears `dsp.transfer_busy` (R199). -/
def Dsp.clearBusy (d : Dsp) : Dsp := { d with transferBusy := false }

end Sys2Proof.Machine
end

