-- ==== Sys2Proof/Machine/Ops.lean ====
section
/-! DEFINITION. The named operations over the memories, the registers and the ports: element reads and writes
(spec/00_scope.md rule R13), the two ways an operation ends (R14, spec/60_exceptions.md rule R261), the DAC output
(R285), the division of the synchroniser (spec/42_sync.md rule R224) and reset (spec/70_reset_and_hazards.md R300). -/

namespace Sys2Proof.Machine

/-! ## Memories (R13, R70, R80, R90) -/

/-- `MemRead`: the element at address `a`; an unlisted address reads 0 (R13, R50). -/
def memRead {w : Nat} (m : Mem w) (a : Nat) : BitVec w :=
  match m with
  | [] => 0
  | (b, x) :: rest => if a = b then x else memRead rest a

/-- `MemWrite`: the memory with element `a` holding `v` (R13). It keeps the canonical form: the entry stands in its
place among the rising addresses, and writing 0 removes it. -/
def memWrite {w : Nat} (m : Mem w) (a : Nat) (v : BitVec w) : Mem w :=
  match m with
  | [] => if v = 0 then [] else [(a, v)]
  | (b, x) :: rest =>
    if a < b then (if v = 0 then (b, x) :: rest else (a, v) :: (b, x) :: rest)
    else if a = b then (if v = 0 then rest else (a, v) :: rest)
    else (b, x) :: memWrite rest a v

/-- Every element of the addresses `0 .. size - 1` written with `v`, in canonical form: what the loop
`for a in 0 .. size - 1: MemWrite(space, a, 1, v)` leaves of a memory of `size` elements (R150). -/
def memFill {w : Nat} (size : Nat) (v : BitVec w) : Mem w :=
  if v = 0 then [] else (List.range size).map fun a => (a, v)

/-- The canonical form of a memory whose addresses lie in `[lo, size)`: addresses strictly rising from `lo`, all below
`size`, no element 0. -/
def memWfFrom {w : Nat} (lo size : Nat) (m : Mem w) : Bool :=
  match m with
  | [] => true
  | (a, v) :: rest => decide (lo ≤ a) && decide (a < size) && decide (v ≠ 0) && memWfFrom (a + 1) size rest

/-- `Memory.wf`: the canonical form of a memory of `size` elements. -/
def memWf {w : Nat} (size : Nat) (m : Mem w) : Bool := memWfFrom 0 size m

/-! ## Writes of one part of the state -/

/-- The state with the AUD registers `a`. -/
def State.setAud (s : State) (a : Aud) : State := { s with aud := a }

/-- The state with the DSP registers `d`. -/
def State.setDsp (s : State) (d : Dsp) : State := { s with dsp := d }

/-- The state with the SYN registers `y`. -/
def State.setSyn (s : State) (y : Syn) : State := { s with syn := y }

/-- The state with the sample memory `m`. -/
def State.setSmp (s : State) (m : Mem 12) : State := { s with smp := m }

/-- The state with the framebuffer memory `m`. -/
def State.setFb (s : State) (m : Mem 8) : State := { s with fb := m }

/-- `emit Dac(l, r)`: one record appended to the DAC output stream (R14, R285). -/
def State.emitDac (s : State) (l r : Sample) : State := { s with dac := s.dac ++ [⟨l, r⟩] }

/-- The response to a command that arrived on port `p`: one pair (status, value) (R14, R121). -/
def State.answer (s : State) (p : Port) (st : Status) (v : Word) : State :=
  { s with responses := s.responses ++ [⟨p, st, v⟩] }

/-! ## The ends of an operation (R14), the synchronous exception among them (R261) -/

/-- `return (OK, v)`: the operation is complete, with status OK and value `v` (R14). -/
def returnOk (p : Port) (v : Word) (s : State) : Answer := .next (s.answer p .ok v)

/-- `raise <Status>`: a rejection, the block's synchronous exception (R14, R261). The response is `(status, 0)` and
nothing else changes: no register saves anything, no mode changes, control goes nowhere. There is no return from it,
since nothing was saved; nor from an event, which is over when its transition is complete (R272, R275). -/
def raise (p : Port) (st : Status) (s : State) : Answer := .next (s.answer p st 0)

/-! ## Arithmetic (R11, R224) -/

/-- `a / b` on unsigned words, truncated toward zero (R11, R224). By 0, which the spec leaves undefined and no run
meets, it is the free value of `Config.noQuotient` (log entry 10). -/
def quotient (a b : Word) : Word := if b = 0 then Config.noQuotient a else a / b

/-! ## Reset (R300) -/

/-- The external reset: every register and memory element at its reset value (R50, R300). What has been answered and
emitted stays on record, and what is presented at the ports stays presented (log entry 7, DESIGN CHOICE). -/
def State.applyReset (s : State) : State :=
  { State.reset with fgIn := s.fgIn, evIn := s.evIn, due := s.due, responses := s.responses, dac := s.dac }

end Sys2Proof.Machine
end

