-- ==== Sys2Proof/Machine/Sync.lean ====
section
/-! DEFINITION. The meanings of the SYN unit's operations (spec/42_sync.md). -/

namespace Sys2Proof.Machine

/-! ## Shared computations -/

/-- The effect of a tick: in RUNNING, `syn.audio_samples_played` grows by the count modulo 2^32; in any other state
nothing changes (R223; spec/90_conflicts.md C3). -/
def synTick (cnt : BitVec 24) (s : State) : State :=
  if s.syn.state = .running then
    s.setSyn { s.syn with audioSamplesPlayed := s.syn.audioSamplesPlayed + zext32 cnt }
  else s

/-- `afi`, the audio frame index (R224). -/
def audioFrameIndex (y : Syn) : Word := quotient y.audioSamplesPlayed y.samplesPerFrame

/-- The bit pattern of `drift`, the 32-bit difference of the video and the audio frame index (R224). -/
def driftWord (y : Syn) : Word := y.videoFramesRendered - audioFrameIndex y

/-- The decision rule, over the mathematical integers (R225). -/
def decisionOf (drift band : Int) : Decision :=
  if drift < -band then .skipFrame
  else if drift > band then .repeatFrame
  else .renderFrame

/-- The greater of two words read as `i32` (R43, R225). -/
def maxSigned (a b : Word) : Word := if a.toInt < b.toInt then b else a

/-- The lesser of two words read as `i32` (R44, R225). -/
def minSigned (a b : Word) : Word := if b.toInt < a.toInt then b else a

/-- The drift statistics after a decision (R225). -/
def Syn.recordDrift (y : Syn) : Syn :=
  { y with maxDrift := maxSigned y.maxDrift (driftWord y), minDrift := minSigned y.minDrift (driftWord y) }

/-- The registers an accepted SYN_INIT leaves (R220). -/
def Syn.configured (rate fps maxDrift : Word) : Syn where
  state := .ready
  sampleRate := rate
  videoFps := fps
  samplesPerFrame := rate / fps
  maxDriftFrames := if maxDrift = 0 then Config.defaultMaxDrift else maxDrift
  audioSamplesPlayed := 0
  videoFramesRendered := 0
  framesSkipped := 0
  framesRepeated := 0
  maxDrift := 0
  minDrift := 0

/-! ## Meanings -/

/-- SYN_INIT (R220; the order of the rejections, R267). -/
def execSynInit (rate fps maxDrift : Word) (s : State) : Answer :=
  if s.syn.state ≠ .reset then raise .fg .badState s
  else if fps = 0 then raise .fg .invalidParam s
  else if rate / fps = 0 then raise .fg .invalidParam s
  else returnOk .fg 0 (s.setSyn (Syn.configured rate fps maxDrift))

/-- SYN_START (R221). -/
def execSynStart (s : State) : Answer :=
  if s.syn.state ≠ .ready then raise .fg .badState s
  else returnOk .fg 0 (s.setSyn { s.syn with state := .running })

/-- SYN_STOP (R222). -/
def execSynStop (s : State) : Answer :=
  if s.syn.state ≠ .running then raise .fg .badState s
  else returnOk .fg 0 (s.setSyn { s.syn with state := .stopped })

/-- SYN_TICK (R223). -/
def execSynTick (cnt : BitVec 24) (s : State) : Answer := returnOk .ev 0 (synTick cnt s)

/-- SYN_DECIDE (R225). -/
def execSynDecide (s : State) : Answer :=
  if s.syn.state ≠ .running then returnOk .fg Decision.notStarted.code s
  else
    returnOk .fg (decisionOf (driftWord s.syn).toInt (s.syn.maxDriftFrames.toNat : Int)).code (s.setSyn s.syn.recordDrift)

/-- SYN_RENDERED (R226). -/
def execSynRendered (s : State) : Answer :=
  returnOk .fg 0 (s.setSyn { s.syn with videoFramesRendered := s.syn.videoFramesRendered + 1 })

/-- SYN_SKIPPED (R227). -/
def execSynSkipped (s : State) : Answer :=
  returnOk .fg 0 (s.setSyn { s.syn with
    videoFramesRendered := s.syn.videoFramesRendered + 1, framesSkipped := s.syn.framesSkipped + 1 })

/-- SYN_AFRAME (R228). -/
def execSynAframe (s : State) : Answer :=
  if s.syn.samplesPerFrame = 0 then raise .fg .badState s
  else returnOk .fg (audioFrameIndex s.syn) s

end Sys2Proof.Machine
end

