-- ==== Sys2Proof/Machine/Audio.lean ====
section
/-! DEFINITION. The meanings of the AUD unit's operations (spec/40_audio.md). -/

namespace Sys2Proof.Machine

/-! ## Shared computations -/

/-- The registers of the AUD unit after an audio event for half `h`: the underrun test on the flag as it was, then the
request, then the sample count (R162). -/
def Aud.afterEvent (a : Aud) (h : Half) : Aud :=
  let counted := a.countUnderrun.requestRefill h
  { counted with samplesPlayed := counted.samplesPlayed + BitVec.ofNat 32 Config.N }

/-- `AudEvent(h)`, the common body of the two audio events: the AUD registers, and the tick forwarded to the
synchroniser when one is attached (R162, R288). -/
def audEvent (h : Half) (s : State) : State :=
  let t := s.setAud (s.aud.afterEvent h)
  if s.aud.syncAttached then synTick tickOfHalf t else t

/-- The event a position raises as the sequencer reaches it: half-complete at `N`, transfer-complete at 0 (R163). -/
def raiseAtPosition (s : State) : State :=
  if s.aud.pos.toNat = Config.N then audEvent .first s
  else if s.aud.pos.toNat = 0 then audEvent .second s
  else s

/-- One step of the sequencer in PLAYING: the pair at the position goes to the DAC, the position advances, and the
event of the new position, if any, is performed (R74, R163). -/
def sequencerStep (s : State) : State :=
  let p := s.aud.pos
  let emitted := s.emitDac (memRead s.smp (leftAddr p)) (memRead s.smp (rightAddr p))
  raiseAtPosition (emitted.setAud { emitted.aud with pos := nextPos p })

/-- The registers an accepted AUD_INIT leaves (R150). -/
def Aud.initialised (attach : Bool) : Aud where
  state := .ready
  needsRefill := false
  fillHalf := .first
  syncAttached := attach
  samplesPlayed := 0
  refillCount := 0
  underrunCount := 0
  pos := 0

/-- A store into the sample memory (R158, R159). -/
def storeSample (idx : BitVec 12) (addr : Nat) (val : Sample) (s : State) : Answer :=
  if idxInRange idx then returnOk .fg 0 (s.setSmp (memWrite s.smp addr val))
  else raise .fg .invalidParam s

/-- A load from the sample memory (R160, R161). -/
def loadSample (idx : BitVec 12) (addr : Nat) (s : State) : Answer :=
  if idxInRange idx then returnOk .fg (zext32 (memRead s.smp addr)) s
  else raise .fg .invalidParam s

/-! ## Lifecycle -/

/-- AUD_INIT (R150). -/
def execAudInit (attach : Bool) (s : State) : Answer :=
  if s.aud.state ≠ .reset then raise .fg .badState s
  else returnOk .fg 0 ((s.setSmp (memFill Config.smpSize Config.silence)).setAud (Aud.initialised attach))

/-- AUD_START (R151). -/
def execAudStart (s : State) : Answer :=
  if s.aud.state ≠ .ready then raise .fg .badState s
  else returnOk .fg 0 (s.setAud { s.aud with pos := 0, state := .playing })

/-- AUD_STOP (R152). -/
def execAudStop (s : State) : Answer :=
  if s.aud.state ≠ .playing then raise .fg .badState s
  else returnOk .fg 0 (s.setAud { s.aud with state := .ready })

/-! ## Polling and acknowledgement -/

/-- AUD_NEEDS_REFILL (R153). -/
def execAudNeedsRefill (s : State) : Answer := returnOk .fg (boolWord s.aud.needsRefill) s

/-- AUD_GET_FILL_HALF (R154). -/
def execAudGetFillHalf (s : State) : Answer := returnOk .fg (zext32 s.aud.fillHalf.code) s

/-- AUD_FILLED (R155; spec/90_conflicts.md C1: the count grows by 1). -/
def execAudFilled (s : State) : Answer :=
  let a := s.aud.clearRefill
  returnOk .fg 0 (s.setAud { a with refillCount := a.refillCount + 1 })

/-- AUD_GET_LBUF (R156). -/
def execAudGetLbuf (s : State) : Answer := returnOk .fg (BitVec.ofNat 32 Config.leftBase) s

/-- AUD_GET_RBUF (R157). -/
def execAudGetRbuf (s : State) : Answer := returnOk .fg (BitVec.ofNat 32 Config.rightBase) s

/-! ## Sample memory access -/

/-- SMP_WRL (R158). -/
def execSmpWrl (idx : BitVec 12) (val : Sample) (s : State) : Answer := storeSample idx (leftAddr idx) val s

/-- SMP_WRR (R159). -/
def execSmpWrr (idx : BitVec 12) (val : Sample) (s : State) : Answer := storeSample idx (rightAddr idx) val s

/-- SMP_RDL (R160). -/
def execSmpRdl (idx : BitVec 12) (s : State) : Answer := loadSample idx (leftAddr idx) s

/-- SMP_RDR (R161). -/
def execSmpRdr (idx : BitVec 12) (s : State) : Answer := loadSample idx (rightAddr idx) s

/-! ## The sequencer and the events -/

/-- TRIG (R163): outside PLAYING it is accepted and does nothing. -/
def execTrig (s : State) : Answer :=
  if s.aud.state ≠ .playing then returnOk .ev 0 s else returnOk .ev 0 (sequencerStep s)

/-- AUD_HT, the half-complete event (R164). -/
def execAudHt (s : State) : Answer := returnOk .ev 0 (audEvent .first s)

/-- AUD_TC, the transfer-complete event (R165). -/
def execAudTc (s : State) : Answer := returnOk .ev 0 (audEvent .second s)

/-- AUD_ERR, the fatal DMA failure (R166). -/
def execAudErr (s : State) : Answer :=
  if s.aud.state ≠ .playing then raise .ev .badState s
  else returnOk .ev 0 (s.setAud { s.aud with state := .error })

end Sys2Proof.Machine
end

