-- ==== Sys2Proof/Machine/Display.lean ====
section
/-! DEFINITION. The meanings of the DSP unit's operations (spec/41_display.md). -/

namespace Sys2Proof.Machine

/-! ## Shared computations -/

/-- `has_frame()`: `frames_rendered > frames_transferred`, unsigned, as the registers stand (R193). -/
def Dsp.hasFrame (d : Dsp) : Bool := decide (d.framesRendered.toNat > d.framesTransferred.toNat)

/-- The initial roles and counters; the busy flag is kept (R190: it "is false already when the operation is
accepted"). -/
def Dsp.initialised (d : Dsp) : Dsp :=
  { d with render := Config.initRender, ready := Config.initReady, transfer := Config.initTransfer,
           framesRendered := 0, framesTransferred := 0 }

/-- The exchange of the render and the ready slot (R192). -/
def Dsp.swapRenderReady (d : Dsp) : Dsp := { d with render := d.ready, ready := d.render }

/-- The exchange of the ready and the transfer slot (R194). -/
def Dsp.swapReadyTransfer (d : Dsp) : Dsp := { d with ready := d.transfer, transfer := d.ready }

/-! ## Foreground operations -/

/-- DSP_INIT (R190). -/
def execDspInit (s : State) : Answer :=
  if s.dsp.transferBusy then raise .fg .badState s
  else returnOk .fg 0 (s.setDsp s.dsp.initialised)

/-- DSP_GET_RENDER (R191). -/
def execDspGetRender (s : State) : Answer := returnOk .fg (BitVec.ofNat 32 (slotBase s.dsp.render)) s

/-- DSP_SWAP (R192). -/
def execDspSwap (s : State) : Answer :=
  let d := s.dsp.swapRenderReady
  returnOk .fg 0 (s.setDsp { d with framesRendered := d.framesRendered + 1 })

/-- DSP_HAS_FRAME (R193). -/
def execDspHasFrame (s : State) : Answer := returnOk .fg (boolWord s.dsp.hasFrame) s

/-- DSP_START_XFER (R194): 0 with status OK when a transfer is busy or no frame is queued. -/
def execDspStartXfer (s : State) : Answer :=
  if s.dsp.transferBusy then returnOk .fg 0 s
  else if !s.dsp.hasFrame then returnOk .fg 0 s
  else returnOk .fg 1 (s.setDsp s.dsp.swapReadyTransfer.setBusy)

/-- DSP_GET_XFER (R195). -/
def execDspGetXfer (s : State) : Answer := returnOk .fg (BitVec.ofNat 32 (slotBase s.dsp.transfer)) s

/-- FB_WR (R196). -/
def execFbWr (addr : BitVec 12) (byte : Byte) (s : State) : Answer :=
  if fbAddrInRange addr then returnOk .fg 0 (s.setFb (memWrite s.fb addr.toNat byte))
  else raise .fg .invalidParam s

/-- FB_RD (R197). -/
def execFbRd (addr : BitVec 12) (s : State) : Answer :=
  if fbAddrInRange addr then returnOk .fg (zext32 (memRead s.fb addr.toNat)) s
  else raise .fg .invalidParam s

/-! ## Display DMA engine operations -/

/-- XFER_RD (R198). -/
def execXferRd (off : BitVec 10) (s : State) : Answer :=
  if s.dsp.transferBusy then returnOk .ev (zext32 (memRead s.fb (xferAddr s.dsp off))) s
  else raise .ev .badState s

/-- DSP_DONE (R199). -/
def execDspDone (s : State) : Answer :=
  if s.dsp.transferBusy then
    let d := s.dsp.clearBusy
    returnOk .ev 0 (s.setDsp { d with framesTransferred := d.framesTransferred + 1 })
  else raise .ev .badState s

end Sys2Proof.Machine
end

