-- ==== Sys2Proof/Machine/System.lean ====
section
/-! DEFINITION. The meaning of the system operation RDREG (spec/43_system.md). -/

namespace Sys2Proof.Machine

/-- RDREG (R250): the register's value as R45 lays it out, or INVALID_PARAM for an unlisted number. -/
def execRdreg (reg : BitVec 8) (s : State) : Answer :=
  match registerValue reg s with
  | some v => returnOk .fg v s
  | none => raise .fg .invalidParam s

end Sys2Proof.Machine
end

