-- ==== Sys2Proof/Machine/Dispatch.lean ====
section
/-! DEFINITION. One arm per instruction (spec/30_encoding.md rule R118), each one direct call of its meaning. -/

namespace Sys2Proof.Machine

def exec (i : Instr) (s : State) : Host.Outcome State Fault Refusal :=
  match i with
  | .audInit attach => Sys2Proof.Machine.execAudInit attach s
  | .audStart => Sys2Proof.Machine.execAudStart s
  | .audStop => Sys2Proof.Machine.execAudStop s
  | .audNeedsRefill => Sys2Proof.Machine.execAudNeedsRefill s
  | .audGetFillHalf => Sys2Proof.Machine.execAudGetFillHalf s
  | .audFilled => Sys2Proof.Machine.execAudFilled s
  | .audGetLbuf => Sys2Proof.Machine.execAudGetLbuf s
  | .audGetRbuf => Sys2Proof.Machine.execAudGetRbuf s
  | .smpWrl idx val => Sys2Proof.Machine.execSmpWrl idx val s
  | .smpWrr idx val => Sys2Proof.Machine.execSmpWrr idx val s
  | .smpRdl idx => Sys2Proof.Machine.execSmpRdl idx s
  | .smpRdr idx => Sys2Proof.Machine.execSmpRdr idx s
  | .dspInit => Sys2Proof.Machine.execDspInit s
  | .dspGetRender => Sys2Proof.Machine.execDspGetRender s
  | .dspSwap => Sys2Proof.Machine.execDspSwap s
  | .dspHasFrame => Sys2Proof.Machine.execDspHasFrame s
  | .dspStartXfer => Sys2Proof.Machine.execDspStartXfer s
  | .dspGetXfer => Sys2Proof.Machine.execDspGetXfer s
  | .fbWr addr byte => Sys2Proof.Machine.execFbWr addr byte s
  | .fbRd addr => Sys2Proof.Machine.execFbRd addr s
  | .synInit rate fps maxDrift => Sys2Proof.Machine.execSynInit rate fps maxDrift s
  | .synStart => Sys2Proof.Machine.execSynStart s
  | .synStop => Sys2Proof.Machine.execSynStop s
  | .synDecide => Sys2Proof.Machine.execSynDecide s
  | .synRendered => Sys2Proof.Machine.execSynRendered s
  | .synSkipped => Sys2Proof.Machine.execSynSkipped s
  | .synAframe => Sys2Proof.Machine.execSynAframe s
  | .rdreg reg => Sys2Proof.Machine.execRdreg reg s
  | .trig => Sys2Proof.Machine.execTrig s
  | .audHt => Sys2Proof.Machine.execAudHt s
  | .audTc => Sys2Proof.Machine.execAudTc s
  | .audErr => Sys2Proof.Machine.execAudErr s
  | .dspDone => Sys2Proof.Machine.execDspDone s
  | .synTick cnt => Sys2Proof.Machine.execSynTick cnt s
  | .xferRd off => Sys2Proof.Machine.execXferRd off s

end Sys2Proof.Machine
end

