-- ==== Sys2Proof/Decode.lean ====
section
/-! DEFINITION. Command words to operations and back: the formats, the opcode map, the length of a command, the
decoder (total on any words and any bytes, refusing by name) and the encoder (spec/30_encoding.md rules R110 to R120). -/

namespace Sys2Proof

/-! ## Fields of a header word (R111 to R114, R116) -/

/-- `hdr[31:24]`, the opcode (R111). -/
def opcodeOf (h : Word) : BitVec 8 := h.extractLsb' 24 8

/-- `hdr[23:12]`, the sample index (R113). -/
def idxField (h : Word) : BitVec 12 := h.extractLsb' 12 12

/-- `hdr[11:0]`, the sample value (R113). -/
def valField (h : Word) : Sample := h.extractLsb' 0 12

/-- `hdr[19:8]`, the framebuffer element address (R114). -/
def addrField (h : Word) : BitVec 12 := h.extractLsb' 8 12

/-- `hdr[7:0]`, the framebuffer byte (R114). -/
def byteField (h : Word) : Byte := h.extractLsb' 0 8

/-- `hdr[17:8]`, the offset inside the transfer slot (R114, R118). -/
def offField (h : Word) : BitVec 10 := h.extractLsb' 8 10

/-- `hdr[7:0]`, the register number (R112). -/
def regField (h : Word) : BitVec 8 := h.extractLsb' 0 8

/-- `hdr[23:0]`, the sample count (R112). -/
def cntField (h : Word) : BitVec 24 := h.extractLsb' 0 24

/-! ## The opcode map (R117, R118) -/

/-- One row of the table of R118: the header `h` on port `port` selects the row when `(h & mask) == pattern`. -/
structure Row where
  mnemonic : String
  port : Port
  pattern : Word
  mask : Word
deriving DecidableEq, Repr

/-- Rows of R118: AUD unit, port FG. -/
def audRows : List Row := [
  ⟨"AUD_INIT", .fg, 0x01000000, 0xFFFFFFFE⟩,
  ⟨"AUD_START", .fg, 0x02000000, 0xFFFFFFFF⟩,
  ⟨"AUD_STOP", .fg, 0x03000000, 0xFFFFFFFF⟩,
  ⟨"AUD_NEEDS_REFILL", .fg, 0x04000000, 0xFFFFFFFF⟩,
  ⟨"AUD_GET_FILL_HALF", .fg, 0x05000000, 0xFFFFFFFF⟩,
  ⟨"AUD_FILLED", .fg, 0x06000000, 0xFFFFFFFF⟩,
  ⟨"AUD_GET_LBUF", .fg, 0x07000000, 0xFFFFFFFF⟩,
  ⟨"AUD_GET_RBUF", .fg, 0x08000000, 0xFFFFFFFF⟩,
  ⟨"SMP_WRL", .fg, 0x09000000, 0xFF000000⟩,
  ⟨"SMP_WRR", .fg, 0x0A000000, 0xFF000000⟩,
  ⟨"SMP_RDL", .fg, 0x0B000000, 0xFF000FFF⟩,
  ⟨"SMP_RDR", .fg, 0x0C000000, 0xFF000FFF⟩]

/-- Rows of R118: DSP unit, port FG. -/
def dspRows : List Row := [
  ⟨"DSP_INIT", .fg, 0x10000000, 0xFFFFFFFF⟩,
  ⟨"DSP_GET_RENDER", .fg, 0x11000000, 0xFFFFFFFF⟩,
  ⟨"DSP_SWAP", .fg, 0x12000000, 0xFFFFFFFF⟩,
  ⟨"DSP_HAS_FRAME", .fg, 0x13000000, 0xFFFFFFFF⟩,
  ⟨"DSP_START_XFER", .fg, 0x14000000, 0xFFFFFFFF⟩,
  ⟨"DSP_GET_XFER", .fg, 0x15000000, 0xFFFFFFFF⟩,
  ⟨"FB_WR", .fg, 0x16000000, 0xFFF00000⟩,
  ⟨"FB_RD", .fg, 0x17000000, 0xFFF000FF⟩]

/-- Rows of R118: SYN unit and system, port FG. -/
def synRows : List Row := [
  ⟨"SYN_INIT", .fg, 0x20000000, 0xFFFFFFFF⟩,
  ⟨"SYN_START", .fg, 0x21000000, 0xFFFFFFFF⟩,
  ⟨"SYN_STOP", .fg, 0x22000000, 0xFFFFFFFF⟩,
  ⟨"SYN_DECIDE", .fg, 0x23000000, 0xFFFFFFFF⟩,
  ⟨"SYN_RENDERED", .fg, 0x24000000, 0xFFFFFFFF⟩,
  ⟨"SYN_SKIPPED", .fg, 0x25000000, 0xFFFFFFFF⟩,
  ⟨"SYN_AFRAME", .fg, 0x26000000, 0xFFFFFFFF⟩,
  ⟨"RDREG", .fg, 0x30000000, 0xFFFFFF00⟩]

/-- Rows of R118: port EV. -/
def evRows : List Row := [
  ⟨"TRIG", .ev, 0x80000000, 0xFFFFFFFF⟩,
  ⟨"AUD_HT", .ev, 0x81000000, 0xFFFFFFFF⟩,
  ⟨"AUD_TC", .ev, 0x82000000, 0xFFFFFFFF⟩,
  ⟨"AUD_ERR", .ev, 0x83000000, 0xFFFFFFFF⟩,
  ⟨"DSP_DONE", .ev, 0x84000000, 0xFFFFFFFF⟩,
  ⟨"SYN_TICK", .ev, 0x85000000, 0xFF000000⟩,
  ⟨"XFER_RD", .ev, 0x86000000, 0xFFFC00FF⟩]

/-- The complete list of operations (R118), in the table's order. -/
def opcodeTable : List Row := audRows ++ dspRows ++ synRows ++ evRows

/-- `(h & mask) == match`, the selection of a row by a header on a port (R118). -/
def Row.selects (r : Row) (p : Port) (h : Word) : Bool := r.port == p && h &&& r.mask == r.pattern

/-! ## Length of a command (R120) -/

/-- The number of words of a command, decided by the opcode and the port alone: four for opcode 0x20 on port FG, one
for every other header, legal or not (R120). -/
def commandLength (p : Port) (h : Word) : Nat :=
  match p with
  | .fg => if opcodeOf h = 0x20 then 4 else 1
  | .ev => 1

/-- The first whole command of a port's word stream, and the words after it (R120): none when the stream is empty or
ends inside the command. -/
def takeCommand (p : Port) (ws : List Word) : Option (List Word × List Word) :=
  match ws with
  | [] => none
  | h :: _ =>
    if ws.length < commandLength p h then none
    else some (ws.take (commandLength p h), ws.drop (commandLength p h))

/-! ## The decoder (R118, R119) -/

/-- Why a command is illegal (R119). The block answers ILLEGAL_OP to each of them alike (R264). -/
inductive Illegal where
  /-- No row has this opcode byte on this port (R119). -/
  | undefinedOpcode
  /-- The opcode is of the other port's class (R119, R252). -/
  | otherPort
  /-- A bit is set that the row's mask requires to be 0 (R119). -/
  | nonzeroBits
  /-- The words are not one whole command: no header, or the wrong number of operand words for it (R110, R120). The
  machine never meets this one: it takes whole commands from the streams. -/
  | notWhole
deriving DecidableEq, Repr

/-- The instruction of a row, when the header passes the row's whole pattern (R118). -/
def rowTest (h pattern mask : Word) (i : Instr) : Except Illegal Instr :=
  if h &&& mask = pattern then .ok i else .error .nonzeroBits

/-- The row of port FG that a header and its operand words select (R118). -/
def decodeFg (h : Word) (ops : List Word) : Except Illegal Instr :=
  match (opcodeOf h).toNat, ops with
  | 0x01, _ => rowTest h 0x01000000 0xFFFFFFFE (.audInit (h.getLsbD 0))
  | 0x02, _ => rowTest h 0x02000000 0xFFFFFFFF .audStart
  | 0x03, _ => rowTest h 0x03000000 0xFFFFFFFF .audStop
  | 0x04, _ => rowTest h 0x04000000 0xFFFFFFFF .audNeedsRefill
  | 0x05, _ => rowTest h 0x05000000 0xFFFFFFFF .audGetFillHalf
  | 0x06, _ => rowTest h 0x06000000 0xFFFFFFFF .audFilled
  | 0x07, _ => rowTest h 0x07000000 0xFFFFFFFF .audGetLbuf
  | 0x08, _ => rowTest h 0x08000000 0xFFFFFFFF .audGetRbuf
  | 0x09, _ => rowTest h 0x09000000 0xFF000000 (.smpWrl (idxField h) (valField h))
  | 0x0A, _ => rowTest h 0x0A000000 0xFF000000 (.smpWrr (idxField h) (valField h))
  | 0x0B, _ => rowTest h 0x0B000000 0xFF000FFF (.smpRdl (idxField h))
  | 0x0C, _ => rowTest h 0x0C000000 0xFF000FFF (.smpRdr (idxField h))
  | 0x10, _ => rowTest h 0x10000000 0xFFFFFFFF .dspInit
  | 0x11, _ => rowTest h 0x11000000 0xFFFFFFFF .dspGetRender
  | 0x12, _ => rowTest h 0x12000000 0xFFFFFFFF .dspSwap
  | 0x13, _ => rowTest h 0x13000000 0xFFFFFFFF .dspHasFrame
  | 0x14, _ => rowTest h 0x14000000 0xFFFFFFFF .dspStartXfer
  | 0x15, _ => rowTest h 0x15000000 0xFFFFFFFF .dspGetXfer
  | 0x16, _ => rowTest h 0x16000000 0xFFF00000 (.fbWr (addrField h) (byteField h))
  | 0x17, _ => rowTest h 0x17000000 0xFFF000FF (.fbRd (addrField h))
  | 0x20, [w1, w2, w3] => rowTest h 0x20000000 0xFFFFFFFF (.synInit w1 w2 w3)
  | 0x21, _ => rowTest h 0x21000000 0xFFFFFFFF .synStart
  | 0x22, _ => rowTest h 0x22000000 0xFFFFFFFF .synStop
  | 0x23, _ => rowTest h 0x23000000 0xFFFFFFFF .synDecide
  | 0x24, _ => rowTest h 0x24000000 0xFFFFFFFF .synRendered
  | 0x25, _ => rowTest h 0x25000000 0xFFFFFFFF .synSkipped
  | 0x26, _ => rowTest h 0x26000000 0xFFFFFFFF .synAframe
  | 0x30, _ => rowTest h 0x30000000 0xFFFFFF00 (.rdreg (regField h))
  | 0x20, _ => .error .notWhole
  | _, _ => .error .undefinedOpcode

/-- The row of port EV that a header selects (R118). -/
def decodeEv (h : Word) : Except Illegal Instr :=
  match (opcodeOf h).toNat with
  | 0x80 => rowTest h 0x80000000 0xFFFFFFFF .trig
  | 0x81 => rowTest h 0x81000000 0xFFFFFFFF .audHt
  | 0x82 => rowTest h 0x82000000 0xFFFFFFFF .audTc
  | 0x83 => rowTest h 0x83000000 0xFFFFFFFF .audErr
  | 0x84 => rowTest h 0x84000000 0xFFFFFFFF .dspDone
  | 0x85 => rowTest h 0x85000000 0xFF000000 (.synTick (cntField h))
  | 0x86 => rowTest h 0x86000000 0xFFFC00FF (.xferRd (offField h))
  | _ => .error .undefinedOpcode

/-- The port a header's class bit names: `op[7]` is 1 for port EV and 0 for port FG (R117). -/
def portClass (h : Word) : Port := if h.msb then .ev else .fg

/-- The decoder: the operation that the words of one command, presented on port `p`, stand for, or why they are
illegal (R118, R119). It answers for every list of words. -/
def decode (p : Port) (ws : List Word) : Except Illegal Instr :=
  match ws with
  | [] => .error .notWhole
  | h :: ops =>
    if portClass h ≠ p then .error .otherPort
    else if ops.length + 1 ≠ commandLength p h then .error .notWhole
    else
      match p with
      | .fg => decodeFg h ops
      | .ev => decodeEv h

/-! ## The encoder (R111 to R116) -/

/-- Format Z: `op`, then 24 zero bits (R111). -/
def formatZ (op : BitVec 8) : Word := op ++ 0#24

/-- Format I: `op`, then a 24-bit immediate (R112). -/
def formatI (op : BitVec 8) (imm : BitVec 24) : Word := op ++ imm

/-- Format S: `op`, a 12-bit index, a 12-bit value (R113). -/
def formatS (op : BitVec 8) (idx val : BitVec 12) : Word := op ++ idx ++ val

/-- Format A: `op`, four zero bits, a 12-bit address, a byte (R114). -/
def formatA (op : BitVec 8) (addr : BitVec 12) (byte : BitVec 8) : Word := op ++ 0#4 ++ addr ++ byte

/-- The words of an instruction, from the formats of R111 to R115 and the opcodes of R118. -/
def encode : Instr → List Word
  | .audInit a => [formatI 0x01 (0#23 ++ BitVec.ofBool a)]
  | .audStart => [formatZ 0x02]
  | .audStop => [formatZ 0x03]
  | .audNeedsRefill => [formatZ 0x04]
  | .audGetFillHalf => [formatZ 0x05]
  | .audFilled => [formatZ 0x06]
  | .audGetLbuf => [formatZ 0x07]
  | .audGetRbuf => [formatZ 0x08]
  | .smpWrl idx val => [formatS 0x09 idx val]
  | .smpWrr idx val => [formatS 0x0A idx val]
  | .smpRdl idx => [formatS 0x0B idx 0]
  | .smpRdr idx => [formatS 0x0C idx 0]
  | .dspInit => [formatZ 0x10]
  | .dspGetRender => [formatZ 0x11]
  | .dspSwap => [formatZ 0x12]
  | .dspHasFrame => [formatZ 0x13]
  | .dspStartXfer => [formatZ 0x14]
  | .dspGetXfer => [formatZ 0x15]
  | .fbWr addr byte => [formatA 0x16 addr byte]
  | .fbRd addr => [formatA 0x17 addr 0]
  | .synInit w1 w2 w3 => [formatZ 0x20, w1, w2, w3]
  | .synStart => [formatZ 0x21]
  | .synStop => [formatZ 0x22]
  | .synDecide => [formatZ 0x23]
  | .synRendered => [formatZ 0x24]
  | .synSkipped => [formatZ 0x25]
  | .synAframe => [formatZ 0x26]
  | .rdreg reg => [formatI 0x30 (0#16 ++ reg)]
  | .trig => [formatZ 0x80]
  | .audHt => [formatZ 0x81]
  | .audTc => [formatZ 0x82]
  | .audErr => [formatZ 0x83]
  | .dspDone => [formatZ 0x84]
  | .synTick cnt => [formatI 0x85 cnt]
  | .xferRd off => [formatA 0x86 (0#2 ++ off) 0]

/-- The opcode of an instruction (R118, column `op`). -/
def Instr.opcode : Instr → BitVec 8
  | .audInit _ => 0x01
  | .audStart => 0x02
  | .audStop => 0x03
  | .audNeedsRefill => 0x04
  | .audGetFillHalf => 0x05
  | .audFilled => 0x06
  | .audGetLbuf => 0x07
  | .audGetRbuf => 0x08
  | .smpWrl _ _ => 0x09
  | .smpWrr _ _ => 0x0A
  | .smpRdl _ => 0x0B
  | .smpRdr _ => 0x0C
  | .dspInit => 0x10
  | .dspGetRender => 0x11
  | .dspSwap => 0x12
  | .dspHasFrame => 0x13
  | .dspStartXfer => 0x14
  | .dspGetXfer => 0x15
  | .fbWr _ _ => 0x16
  | .fbRd _ => 0x17
  | .synInit _ _ _ => 0x20
  | .synStart => 0x21
  | .synStop => 0x22
  | .synDecide => 0x23
  | .synRendered => 0x24
  | .synSkipped => 0x25
  | .synAframe => 0x26
  | .rdreg _ => 0x30
  | .trig => 0x80
  | .audHt => 0x81
  | .audTc => 0x82
  | .audErr => 0x83
  | .dspDone => 0x84
  | .synTick _ => 0x85
  | .xferRd _ => 0x86

/-- The port an instruction belongs to (R118, column `port`; R123: "The port is implied by the mnemonic"). -/
def Instr.port : Instr → Port
  | .audInit _ => .fg
  | .audStart => .fg
  | .audStop => .fg
  | .audNeedsRefill => .fg
  | .audGetFillHalf => .fg
  | .audFilled => .fg
  | .audGetLbuf => .fg
  | .audGetRbuf => .fg
  | .smpWrl _ _ => .fg
  | .smpWrr _ _ => .fg
  | .smpRdl _ => .fg
  | .smpRdr _ => .fg
  | .dspInit => .fg
  | .dspGetRender => .fg
  | .dspSwap => .fg
  | .dspHasFrame => .fg
  | .dspStartXfer => .fg
  | .dspGetXfer => .fg
  | .fbWr _ _ => .fg
  | .fbRd _ => .fg
  | .synInit _ _ _ => .fg
  | .synStart => .fg
  | .synStop => .fg
  | .synDecide => .fg
  | .synRendered => .fg
  | .synSkipped => .fg
  | .synAframe => .fg
  | .rdreg _ => .fg
  | .trig => .ev
  | .audHt => .ev
  | .audTc => .ev
  | .audErr => .ev
  | .dspDone => .ev
  | .synTick _ => .ev
  | .xferRd _ => .ev

/-- The mnemonic of an instruction (R118). -/
def Instr.mnemonic : Instr → String
  | .audInit _ => "AUD_INIT"
  | .audStart => "AUD_START"
  | .audStop => "AUD_STOP"
  | .audNeedsRefill => "AUD_NEEDS_REFILL"
  | .audGetFillHalf => "AUD_GET_FILL_HALF"
  | .audFilled => "AUD_FILLED"
  | .audGetLbuf => "AUD_GET_LBUF"
  | .audGetRbuf => "AUD_GET_RBUF"
  | .smpWrl _ _ => "SMP_WRL"
  | .smpWrr _ _ => "SMP_WRR"
  | .smpRdl _ => "SMP_RDL"
  | .smpRdr _ => "SMP_RDR"
  | .dspInit => "DSP_INIT"
  | .dspGetRender => "DSP_GET_RENDER"
  | .dspSwap => "DSP_SWAP"
  | .dspHasFrame => "DSP_HAS_FRAME"
  | .dspStartXfer => "DSP_START_XFER"
  | .dspGetXfer => "DSP_GET_XFER"
  | .fbWr _ _ => "FB_WR"
  | .fbRd _ => "FB_RD"
  | .synInit _ _ _ => "SYN_INIT"
  | .synStart => "SYN_START"
  | .synStop => "SYN_STOP"
  | .synDecide => "SYN_DECIDE"
  | .synRendered => "SYN_RENDERED"
  | .synSkipped => "SYN_SKIPPED"
  | .synAframe => "SYN_AFRAME"
  | .rdreg _ => "RDREG"
  | .trig => "TRIG"
  | .audHt => "AUD_HT"
  | .audTc => "AUD_TC"
  | .audErr => "AUD_ERR"
  | .dspDone => "DSP_DONE"
  | .synTick _ => "SYN_TICK"
  | .xferRd _ => "XFER_RD"

/-! ## Words as bytes (R88) -/

/-- A word as four bytes, least significant byte first (R88). -/
def wordBytes (w : Word) : List Byte :=
  [w.extractLsb' 0 8, w.extractLsb' 8 8, w.extractLsb' 16 8, w.extractLsb' 24 8]

/-- The words that a list of bytes serialises, least significant byte first, and the bytes left over (R88). -/
def wordsOfBytes : List Byte → List Word × List Byte
  | b0 :: b1 :: b2 :: b3 :: rest =>
    let (ws, left) := wordsOfBytes rest
    ((b3 ++ b2 ++ b1 ++ b0) :: ws, left)
  | left => ([], left)

/-- The decoder on a serialised command: total on any bytes (R88, R119). -/
def decodeBytes (p : Port) (bs : List Byte) : Except Illegal Instr :=
  match wordsOfBytes bs with
  | (ws, []) => decode p ws
  | (_, _ :: _) => .error .notWhole

/-! ## A table row's bits as a command -/

/-- The four words that hold the low 128 bits of an instruction numbered as spec/opcode_table.json numbers them, where
the bits at `nbits` and above are 0. -/
def tableWords (nbits w : Nat) : List Word :=
  let v := w % 2 ^ nbits
  [BitVec.ofNat 32 v, BitVec.ofNat 32 (v >>> 32), BitVec.ofNat 32 (v >>> 64), BitVec.ofNat 32 (v >>> 96)]

/-- The port and the words of the command that a table row's bits stand for: the port its class bit `op[7]` names
(R117), and as many words as R120 gives the header. Log entry 8, DEDUCED. -/
def tableCommand (nbits w : Nat) : Port × List Word :=
  let ws := tableWords nbits w
  let h := BitVec.ofNat 32 (w % 2 ^ nbits)
  (portClass h, ws.take (commandLength (portClass h) h))

/-- The instruction the decoder reads from an instruction whose bits are `w`. -/
def decodeTableWord (nbits w : Nat) : Option Instr :=
  let c := tableCommand nbits w
  match decode c.1 c.2 with
  | .ok i => some i
  | .error _ => none

end Sys2Proof
end

