-- ==== Sys2Proof/Machine/Fetch.lean ====
section
/-! DEFINITION. How the next command reaches the block: the ports' word streams (spec/30_encoding.md rules R110, R120),
the order in which commands reach the block (spec/20_memory.md rule R94, spec/60_exceptions.md rule R276) and the
external reset (spec/70_reset_and_hazards.md rule R300). The block fetches no instruction from any memory (R97). -/

namespace Sys2Proof.Machine

/-- An audio event of R276: a header that decodes to TRIG, AUD_HT, AUD_TC or AUD_ERR. -/
def isAudioEvent (h : Word) : Bool :=
  match decode .ev [h] with
  | .ok .trig => true
  | .ok .audHt => true
  | .ok .audTc => true
  | .ok .audErr => true
  | _ => false

/-- A display event of R276: a header that decodes to DSP_DONE or XFER_RD. -/
def isDisplayEvent (h : Word) : Bool :=
  match decode .ev [h] with
  | .ok .dspDone => true
  | .ok (.xferRd _) => true
  | _ => false

/-- The first command among the first `n` words of a stream that is no display event, and the stream without it. -/
def pickNonDisplay (n : Nat) (ws : List Word) : Option (Word × List Word) :=
  match n, ws with
  | 0, _ => none
  | _, [] => none
  | n + 1, w :: rest =>
    if isDisplayEvent w then (pickNonDisplay n rest).map fun r => (r.1, w :: r.2)
    else some (w, rest)

/-- The command of port EV performed next when the first `n` of its stream are due at the same instant. The commands of
a port are performed in the order the port issued them (R94 b), with the one exception of R276: a display event waits
while an audio event is due with it. A command that stands between the two keeps its place before the audio event, and
so comes before the display event too (log entry 3, DESIGN CHOICE). Every command of port EV is one word (R120). -/
def takeEvent (n : Nat) (ws : List Word) : Option (Word × List Word) :=
  if (ws.take n).any isAudioEvent then pickNonDisplay n ws
  else
    match ws with
    | [] => none
    | w :: rest => some (w, rest)

/-- What is still due of an instant, before the later instants. -/
def stillDue (ev fg : Nat) (rest : List Due) : List Due :=
  if ev = 0 ∧ fg = 0 then rest else .commands ev fg :: rest

/-- What the next step finds at the ports. -/
inductive Fetched where
  /-- No command is performed; the state after (unchanged when nothing is due). -/
  | quiet (s : State)
  /-- One whole command: the port, its words, and the state with the command taken. -/
  | command (p : Port) (ws : List Word) (s : State)

/-- The next thing to reach the block. At an instant, EV commands come before FG commands, and audio events before
display events (R276); otherwise each port's commands come in the order it issued them (R94 b). With nothing due the block is quiet, and a turn whose port holds no whole command passes
(log entries 2 and 4, DESIGN CHOICE). -/
def fetch (s : State) : Fetched :=
  match s.due with
  | [] => .quiet s
  | .reset :: rest => .quiet { s with due := rest }.applyReset
  | .commands 0 0 :: rest => .quiet { s with due := rest }
  | .commands 0 (fg + 1) :: rest =>
    match takeCommand .fg s.fgIn with
    | some (ws, left) => .command .fg ws { s with fgIn := left, due := stillDue 0 fg rest }
    | none => .quiet { s with due := rest }
  | .commands (ev + 1) fg :: rest =>
    match takeEvent (ev + 1) s.evIn with
    | some (w, left) => .command .ev [w] { s with evIn := left, due := stillDue ev fg rest }
    | none => .quiet { s with due := stillDue 0 fg rest }

/-- The words of one command presented on a port ahead of everything else, due alone at the next instant. -/
def State.present (s : State) (p : Port) (ws : List Word) : State :=
  match p with
  | .fg => { s with fgIn := ws ++ s.fgIn, due := .commands 0 1 :: s.due }
  | .ev => { s with evIn := ws ++ s.evIn, due := .commands 1 0 :: s.due }

/-- The response to an illegal command: ILLEGAL_OP on the port it arrived on, value 0, no change of state
(R119, R264). -/
def rejectIllegal (p : Port) (s : State) : Answer := raise p .illegalOp s

end Sys2Proof.Machine
end

