-- ==== Sys2Proof/Machine/Step.lean ====
section
/-! DEFINITION. One step: the next thing to reach the block is performed whole (spec/00_scope.md rule R8). -/

namespace Sys2Proof.Machine

/-- One step of the block: the next command is decoded and performed, or rejected with ILLEGAL_OP (R8, R119). -/
def step (s : State) : Host.Outcome State Fault Refusal :=
  match fetch s with
  | .quiet s' => .next s'
  | .command p ws s' =>
    match decode p ws with
    | .ok i => exec i s'
    | .error _ => rejectIllegal p s'

/-- The state in which the command whose bits are `w` is the very next to reach the block: its words stand at the head
of the stream of the port its class bit names, due alone at the next instant (log entries 8 and 9). -/
def State.withFetchWord (s : State) (nbits w : Nat) : State :=
  s.present (tableCommand nbits w).1 (tableCommand nbits w).2

end Sys2Proof.Machine
end

