-- ==== Sys2Proof/Machine/Pseudo.lean ====
section
/-! DEFINITION. The pseudo-instructions of spec/30_encoding.md rule R124 as the lists of operations they expand to, the
boot sequence of spec/70_reset_and_hazards.md rule R303, and the performance of a list of operations one after the
other (00_scope.md rule R8). -/

namespace Sys2Proof.Machine

/-- A list of operations performed in order, each one whole (R8). -/
def execAll (is : List Instr) (s : State) : Answer :=
  match is with
  | [] => .next s
  | i :: rest =>
    match exec i s with
    | .next t => execAll rest t
    | .fault r => .fault r
    | .refused r => .refused r

/-- `.rept n` ... `.endr` (R124). -/
def rept (n : Nat) (is : List Instr) : List Instr := (List.replicate n is).flatten

/-- `TRIGN n` (R124). -/
def trigN (n : Nat) : List Instr := rept n [.trig]

/-- `SMP_FILL base, count, l, r`: for each index in increasing order, SMP_WRL then SMP_WRR (R124). R124 rules out
`base + count > 4096` and does not say what such a line expands to; here the index is its low 12 bits (log entry 16,
DESIGN CHOICE, unsafe). -/
def smpFill (base count : Nat) (l r : Sample) : List Instr :=
  (List.range' base count).flatMap fun i => [.smpWrl (BitVec.ofNat 12 i) l, .smpWrr (BitVec.ofNat 12 i) r]

/-- `FB_FILL addr, count, b`: for each address in increasing order, FB_WR (R124). R124 gives it no bound, and FB_WR of an
address above 4095 has no encoding; here the address is its low 12 bits (log entry 16, DESIGN CHOICE, unsafe). -/
def fbFill (addr count : Nat) (b : Byte) : List Instr :=
  (List.range' addr count).map fun a => .fbWr (BitVec.ofNat 12 a) b

/-- `XFER_ALL`: the 1024 reads in increasing order, one admissible order of the display DMA engine (R84, R124). -/
def xferAll : List Instr := (List.range Config.fbSize).map fun o => .xferRd (BitVec.ofNat 10 o)

/-- `REFILL l, r` when AUD_GET_FILL_HALF answers `h`: the question, the fill of that half, the acknowledgement
(R77, R124). -/
def refill (h : Half) (l r : Sample) : List Instr :=
  .audGetFillHalf :: smpFill (halfOffset h) Config.N l r ++ [.audFilled]

/-- The boot sequence, steps 2 to 7, with a constant pre-start fill (R303, R304). -/
def bootSequence (rate fps maxDrift : Word) (l r : Sample) : List Instr :=
  [.dspInit, .synInit rate fps maxDrift, .audInit true] ++ smpFill 0 Config.bufLen l r ++ [.synStart, .audStart]

end Sys2Proof.Machine
end

