-- ==== Sys2Proof/Safety.lean ====
section
/-! DEFINITION. What counts as a legal state and a safe run, in the terms claims use: the invariants of
spec/10_state.md rule R47 and spec/41_display.md rule R200, the sticky mark of spec/60_exceptions.md rule R261, the
ownership rules of spec/20_memory.md rules R72 and R83, and how a frame is seen (R86). -/

namespace Sys2Proof.Machine

/-! ## Invariants -/

/-- The three roles are a permutation of the slots 0, 1, 2 (R200 a). -/
abbrev Dsp.rolesDistinct (d : Dsp) : Prop := d.render ≠ d.ready ∧ d.ready ≠ d.transfer ∧ d.render ≠ d.transfer

/-- The synchroniser's configuration: 0 from reset until an accepted SYN_INIT, a divisor and a band of at least 1 from
then on (R37, R38, R47 a). -/
abbrev Syn.configOk (y : Syn) : Prop :=
  (y.state = .reset → y.samplesPerFrame = 0 ∧ y.maxDriftFrames = 0) ∧
    (y.state ≠ .reset → 1 ≤ y.samplesPerFrame.toNat ∧ 1 ≤ y.maxDriftFrames.toNat)

/-- The statistics: `frames_repeated` reads 0 at all times, `max_drift >= 0 >= min_drift` (R42, R43, R44). -/
abbrev Syn.statsOk (y : Syn) : Prop := y.framesRepeated = 0 ∧ 0 ≤ y.maxDrift.toInt ∧ y.minDrift.toInt ≤ 0

/-- Both memories are in canonical form, with every address inside its space (R70, R80). -/
abbrev State.memoryOk (s : State) : Prop :=
  memWf Config.smpSize s.smp = true ∧ memWf Config.fbMemSize s.fb = true

/-- What every state of a run satisfies. -/
structure State.Inv (s : State) : Prop where
  roles : s.dsp.rolesDistinct
  config : s.syn.configOk
  stats : s.syn.statsOk
  memory : s.memoryOk

/-- The frame counters before any wrap: transfers never outnumber renders, and a transfer in flight is for a frame not
yet counted as transferred (R200 c). -/
abbrev Dsp.countersOk (d : Dsp) : Prop :=
  d.framesTransferred.toNat ≤ d.framesRendered.toNat ∧
    (d.transferBusy = true → d.framesTransferred.toNat < d.framesRendered.toNat)

/-! ## Rejections -/

/-- The sticky mark of R261: some operation so far was rejected. -/
def State.anyRejected (s : State) : Bool := s.responses.any fun r => r.status != .ok

/-! ## Ownership -/

/-- The half the sequencer is reading (R72, R306). -/
def State.playingHalf (s : State) : Half := halfOfIndex s.aud.pos.toNat

/-- The half named for the foreground is not the half that is playing (R170). -/
abbrev State.namedHalfFree (s : State) : Prop := s.aud.fillHalf ≠ s.playingHalf

/-- The slot an `FB` element address lies in: `a / 1024` (R80). -/
def slotOfAddr (a : Nat) : Nat := a / Config.fbSize

/-- Whether an instruction respects ownership: a foreground store that does writes no sample of the playing half while
PLAYING (R306) and no byte of the transfer slot while a transfer is in flight (R309). The block does not check it. -/
def State.ownershipAllows (s : State) (i : Instr) : Bool :=
  match i with
  | .smpWrl idx _ => decide (s.aud.state = .playing → halfOfIndex idx.toNat ≠ s.playingHalf)
  | .smpWrr idx _ => decide (s.aud.state = .playing → halfOfIndex idx.toNat ≠ s.playingHalf)
  | .fbWr addr _ => decide (s.dsp.transferBusy = true → slotOfAddr addr.toNat ≠ s.dsp.transfer.val)
  | .audInit _ => true
  | .audStart => true
  | .audStop => true
  | .audNeedsRefill => true
  | .audGetFillHalf => true
  | .audFilled => true
  | .audGetLbuf => true
  | .audGetRbuf => true
  | .smpRdl _ => true
  | .smpRdr _ => true
  | .dspInit => true
  | .dspGetRender => true
  | .dspSwap => true
  | .dspHasFrame => true
  | .dspStartXfer => true
  | .dspGetXfer => true
  | .fbRd _ => true
  | .synInit _ _ _ => true
  | .synStart => true
  | .synStop => true
  | .synDecide => true
  | .synRendered => true
  | .synSkipped => true
  | .synAframe => true
  | .rdreg _ => true
  | .trig => true
  | .audHt => true
  | .audTc => true
  | .audErr => true
  | .dspDone => true
  | .synTick _ => true
  | .xferRd _ => true

/-! ## Reading the memories -/

/-- `left[i]` (R70). -/
def State.left (s : State) (i : Nat) : Sample := memRead s.smp (Config.leftBase + i)

/-- `right[i]` (R70). -/
def State.right (s : State) (i : Nat) : Sample := memRead s.smp (Config.rightBase + i)

/-- `fb[slot][o]` (R80). -/
def State.frameByte (s : State) (slot : Slot) (o : Nat) : Byte := memRead s.fb (slotBase slot + o)

/-- Pixel `(x, y)` of the frame in a slot: bit `y mod 8` of byte `128 * (y / 8) + x` (R86). -/
def State.pixel (s : State) (slot : Slot) (x y : Nat) : Bool :=
  (s.frameByte slot (128 * (y / 8) + x)).getLsbD (y % 8)

/-! ## Runs -/

/-- The machine right after reset, with any commands presented at its ports in any order. -/
def State.started (fg ev : List Word) (due : List Due) : State :=
  { State.reset with fgIn := fg, evIn := ev, due := due }

end Sys2Proof.Machine
end

