-- ==== Sys2Proof/WellFormed.lean ====
section
/-! DEFINITION. When an instruction is well formed: its operands lie in what its encoding addresses
(spec/00_scope.md rule R7, spec/30_encoding.md rules R112 to R116). The operand types carry the field widths already;
the one bound that is not a width is the sample index, which must lie in `[0, 2N)`. -/

namespace Sys2Proof

/-- Well-formedness for a half size `n` (R7 lets a model take any `n` with `1 <= n <= 2048` for testing): a sample
index addresses one of the `2n` samples of a channel buffer. -/
def Instr.wellFormedFor (n : Nat) : Instr → Bool
  | .smpWrl idx _ => decide (idx.toNat < 2 * n)
  | .smpWrr idx _ => decide (idx.toNat < 2 * n)
  | .smpRdl idx => decide (idx.toNat < 2 * n)
  | .smpRdr idx => decide (idx.toNat < 2 * n)
  | .audInit _ => true
  | .audStart => true
  | .audStop => true
  | .audNeedsRefill => true
  | .audGetFillHalf => true
  | .audFilled => true
  | .audGetLbuf => true
  | .audGetRbuf => true
  | .dspInit => true
  | .dspGetRender => true
  | .dspSwap => true
  | .dspHasFrame => true
  | .dspStartXfer => true
  | .dspGetXfer => true
  | .fbWr _ _ => true
  | .fbRd _ => true
  | .synInit _ _ _ => true
  | .synStart => true
  | .synStop => true
  | .synDecide => true
  | .synRendered => true
  | .synSkipped => true
  | .synAframe => true
  | .rdreg _ => true
  | .trig => true
  | .audHt => true
  | .audTc => true
  | .audErr => true
  | .dspDone => true
  | .synTick _ => true
  | .xferRd _ => true

/-- Well-formedness on this hardware, where `N` = 2048 and the 12-bit index field addresses exactly `2N` elements, so
that every instruction the encodings can express is well formed (R7). An `FB` address of 3072 or more and an unlisted
register number are encodable and are no ill-formedness: the operation answers INVALID_PARAM (R196, R197, R250). -/
def Instr.wellFormed (i : Instr) : Bool := i.wellFormedFor Config.N

end Sys2Proof
end

