-- ==== Sys2Proof/Certificates/Slice0/Obligations.lean ====
section
/-! DEFINITION. The statements for the provers. Each docstring names the rule of spec/ it formalises. A state `t` written
as a full update of `s` is its own frame: every register, flag, memory element and port not named is unchanged. -/

open Sys2Proof Sys2Proof.Machine

/-! ## Encoding -/

/-- Decode and encode agree: every well-formed instruction, with every operand at every value its encoding admits
(R111 to R116, R118). -/
def Obligations.EncodedInstructionDecodesBack : Prop :=
  ∀ i : Instr, i.wellFormed = true → decode i.port (encode i) = .ok i

/-- Every legal command is the encoding of the instruction it decodes to, on that instruction's port: no bit of a
command is dropped and no instruction has two encodings (R118, R119). -/
def Obligations.DecodedWordsAreTheEncoding : Prop :=
  ∀ (p : Port) (ws : List Word) (i : Instr), decode p ws = .ok i → i.port = p ∧ encode i = ws

/-- R118: a command decodes exactly when a row of the table selects its header, to that row's operation; no two rows of
one port select the same header; 28 rows are on port FG and 7 on port EV. -/
def Obligations.DecoderFollowsTheOpcodeTable : Prop :=
  (∀ (p : Port) (h : Word) (ops : List Word), ops.length + 1 = commandLength p h →
    (∀ i, decode p (h :: ops) = .ok i → ∃ r ∈ opcodeTable, r.selects p h = true ∧ r.mnemonic = i.mnemonic) ∧
    (∀ r ∈ opcodeTable, r.selects p h = true → ∃ i, decode p (h :: ops) = .ok i ∧ i.mnemonic = r.mnemonic)) ∧
  (∀ (p : Port) (h : Word), ∀ r₁ ∈ opcodeTable, ∀ r₂ ∈ opcodeTable,
    r₁.selects p h = true → r₂.selects p h = true → r₁ = r₂) ∧
  (opcodeTable.filter fun r => r.port == .fg).length = 28 ∧ (opcodeTable.filter fun r => r.port == .ev).length = 7

/-- R119, R264: a command whose header no row of its port selects is rejected with ILLEGAL_OP, value 0 and no change of
state; a command whose header a row selects is performed as that row's operation. Taking the command from its port
changes the ports alone, so that an illegal command changes no register, no memory element and no output. -/
def Obligations.IllegalCommandIsRejected : Prop :=
  ∀ (s s' : State) (p : Port) (h : Word) (ops : List Word), fetch s = .command p (h :: ops) s' →
    (∃ fgIn evIn due, s' = { s with fgIn := fgIn, evIn := evIn, due := due }) ∧
    ((∀ r ∈ opcodeTable, r.selects p h = false) → step s = .next (s'.answer p .illegalOp 0)) ∧
    (∀ r ∈ opcodeTable, r.selects p h = true → ∃ i, i.mnemonic = r.mnemonic ∧ step s = exec i s')

/-- A few of the words of spec/95_test_vectors.md section 2.1, E1 to E36. A sanity statement. -/
def Obligations.PublishedWordsDecode : Prop :=
  decode .fg [0x01000001] = .ok (.audInit true) ∧
  decode .fg [0x09005123] = .ok (.smpWrl 5 0x123) ∧
  decode .fg [0x160405FF] = .ok (.fbWr 0x405 0xFF) ∧
  decode .fg [0x20000000, 0x00007D00, 0x0000001E, 0x00000000] = .ok (.synInit 32000 30 0) ∧
  decode .fg [0x3000002A] = .ok (.rdreg 0x2A) ∧
  decode .ev [0x85000800] = .ok (.synTick 2048) ∧
  decode .ev [0x8603FF00] = .ok (.xferRd 1023) ∧
  decode .fg [0x80000000] = .error .otherPort ∧
  decode .ev [0x86040000] = .error .nonzeroBits

/-- A step runs the decoded instruction: the command fetched, decoded to `i`, is performed as `exec i` on the state with
the command taken from its port, which changes the ports alone, and nothing is added around it (R8). -/
def Obligations.StepRunsTheDecodedInstruction : Prop :=
  ∀ (s s' : State) (p : Port) (ws : List Word) (i : Instr),
    fetch s = .command p ws s' → decode p ws = .ok i →
      step s = exec i s' ∧ ∃ fgIn evIn due, s' = { s with fgIn := fgIn, evIn := evIn, due := due }

/-- An instruction presented on its port, alone at the next instant, is what the next step performs, whatever else the
ports hold. That the ports' streams and the order of arrival stand in State is the model's choice (log entries 1, 2). -/
def Obligations.PresentedInstructionRunsNext : Prop :=
  ∀ (i : Instr) (s : State), step (s.present i.port (encode i)) = exec i s

/-- R120: on port FG a header with opcode 0x20 takes the three words after it, also when the header is illegal, and the
command is then rejected as a whole; every other command of either port is one word. -/
def Obligations.CommandLengthIsDecidedByTheOpcode : Prop :=
  (∀ (h w1 w2 w3 : Word) (rest : List Word), opcodeOf h = 0x20 →
    takeCommand .fg (h :: w1 :: w2 :: w3 :: rest) = some ([h, w1, w2, w3], rest) ∧
    (h ≠ 0x20000000 → decode .fg [h, w1, w2, w3] = .error .nonzeroBits)) ∧
  (∀ (h : Word) (rest : List Word), opcodeOf h ≠ 0x20 → takeCommand .fg (h :: rest) = some ([h], rest)) ∧
  (∀ (h : Word) (rest : List Word), takeCommand .ev (h :: rest) = some ([h], rest))

/-- R88: words serialise least significant byte first, and the words read back from the bytes are the words written. -/
def Obligations.SerialisedWordsReadBack : Prop :=
  (∀ ws : List Word, wordsOfBytes (ws.flatMap wordBytes) = (ws, [])) ∧
  (∀ w : Word, (wordBytes w).map BitVec.toNat =
    [w.toNat % 256, w.toNat / 256 % 256, w.toNat / 65536 % 256, w.toNat / 16777216 % 256])

/-! ## The order in which commands reach the block -/

/-- R276, R94 (b): where EV commands and FG commands are due at the same instant, an EV command is performed first. It is
the first of its stream when no audio event is due; the rest of the stream keeps its order. When no EV command is due,
the first whole command of port FG is performed. Taking a command changes nothing but its own port's stream and what is
due. That only display events, for an audio event due with them, are ever overtaken is the model's choice where a
SYN_TICK or an illegal header stands between the two (log entry 3: the audio event could go first there). The streams and
the instants are the model's own fields (log entries 1, 2). -/
def Obligations.EventsComeBeforeTheForeground : Prop :=
  ∀ (s : State) (ev fg : Nat) (rest : List Due),
    (s.due = .commands (ev + 1) fg :: rest → s.evIn ≠ [] →
      ∃ pre h post, s.evIn = pre ++ h :: post ∧
        fetch s = .command .ev [h] { s with evIn := pre ++ post, due := stillDue ev fg rest } ∧
        (pre ≠ [] → (∀ w ∈ pre, isDisplayEvent w = true) ∧ ∃ w ∈ s.evIn.take (ev + 1), isAudioEvent w = true)) ∧
    (∀ (h : Word) (post : List Word), s.due = .commands (ev + 1) fg :: rest → s.evIn = h :: post →
      (∀ w ∈ s.evIn.take (ev + 1), isAudioEvent w = false) →
      fetch s = .command .ev [h] { s with evIn := post, due := stillDue ev fg rest }) ∧
    (∀ ws left : List Word, s.due = .commands 0 (fg + 1) :: rest → takeCommand .fg s.fgIn = some (ws, left) →
      fetch s = .command .fg ws { s with fgIn := left, due := stillDue 0 fg rest })

/-- R276: while an audio event is due, no display event due with it is performed. Which headers are audio events and
which are display events is stated too. What is performed is the first command of the stream that is no display event,
so that the other commands keep the order of their port (R94 b). That a command which stands between a display event and
a later audio event also comes before the display event is the model's choice (log entry 3). -/
def Obligations.AudioEventsComeBeforeDisplayEvents : Prop :=
  (∀ h : Word, isAudioEvent h = true ↔ h = 0x80000000 ∨ h = 0x81000000 ∨ h = 0x82000000 ∨ h = 0x83000000) ∧
  (∀ h : Word, isDisplayEvent h = true ↔
    h = 0x84000000 ∨ ∃ off : BitVec 10, h = BitVec.ofNat 32 (0x86000000 + 2 ^ 8 * off.toNat)) ∧
  ∀ (s : State) (ev fg : Nat) (rest : List Due), s.due = .commands (ev + 1) fg :: rest →
    (∃ w ∈ s.evIn.take (ev + 1), isAudioEvent w = true) →
    ∃ pre h post, s.evIn = pre ++ h :: post ∧ pre.length ≤ ev ∧ isDisplayEvent h = false ∧
      (∀ w ∈ pre, isDisplayEvent w = true) ∧
      fetch s = .command .ev [h] { s with evIn := pre ++ post, due := stillDue ev fg rest }

/-- R276: "Audio events and display events touch disjoint state, so the order between them changes no result": the
states differ at most in the order of the two responses. -/
def Obligations.AudioAndDisplayEventsCommute : Prop :=
  ∀ a ∈ [Instr.trig, .audHt, .audTc, .audErr], ∀ (off : BitVec 10), ∀ d ∈ [Instr.dspDone, .xferRd off], ∀ s : State,
    ∃ t u ra rd, execAll [a, d] s = .next t ∧ execAll [d, a] s = .next u ∧
      t.responses = s.responses ++ [ra, rd] ∧ u.responses = s.responses ++ [rd, ra] ∧
      { t with responses := [] } = { u with responses := [] }

/-- Every step of every state answers a next state: the block has no fault, every operation completes in one step
(R96), and every undefined pattern is rejected (R119). That a step with no whole command to perform is a step too is the
model's choice (log entries 2, 4). -/
def Obligations.EveryStepAnswersANextState : Prop :=
  ∀ s : State, ∃ t, step s = .next t

/-- With nothing due the state stays as it is (the model's choice: log entry 2), and a turn of port FG whose stream ends
inside SYN_INIT's four words passes with the words left waiting (the model's choice: log entry 4). -/
def Obligations.QuietTurnsChangeNoRegister : Prop :=
  (∀ s : State, s.due = [] → step s = .next s) ∧
  (∀ (s : State) (fg : Nat) (rest : List Due), s.due = .commands 0 (fg + 1) :: rest →
    (s.fgIn = [] ∨ ∃ h ops, s.fgIn = h :: ops ∧ opcodeOf h = 0x20 ∧ ops.length < 3) →
    step s = .next { s with due := rest })

/-! ## Reset and the invariants -/

/-- R50: the value of every piece of state after reset. -/
def Obligations.ResetValues : Prop :=
  let s := State.reset
  s.aud.state = .reset ∧ s.aud.needsRefill = false ∧ s.aud.fillHalf = .first ∧ s.aud.syncAttached = false ∧
  s.aud.samplesPlayed = 0 ∧ s.aud.refillCount = 0 ∧ s.aud.underrunCount = 0 ∧ s.aud.pos = 0 ∧
  s.dsp.render.val = 0 ∧ s.dsp.ready.val = 2 ∧ s.dsp.transfer.val = 1 ∧ s.dsp.transferBusy = false ∧
  s.dsp.framesRendered = 0 ∧ s.dsp.framesTransferred = 0 ∧
  s.syn.state = .reset ∧ s.syn.sampleRate = 0 ∧ s.syn.videoFps = 0 ∧ s.syn.samplesPerFrame = 0 ∧
  s.syn.maxDriftFrames = 0 ∧ s.syn.audioSamplesPlayed = 0 ∧ s.syn.videoFramesRendered = 0 ∧
  s.syn.framesSkipped = 0 ∧ s.syn.framesRepeated = 0 ∧ s.syn.maxDrift = 0 ∧ s.syn.minDrift = 0 ∧
  (∀ a, memRead s.smp a = 0) ∧ (∀ a, memRead s.fb a = 0)

/-- A reset that reaches the block in any state, the terminal ones included, puts every register and memory element at
its reset value (R300). That the ports keep what is presented and what is on record is the model's choice (log
entry 7). -/
def Obligations.ResetEventRestoresTheResetState : Prop :=
  ∀ (s : State) (rest : List Due), s.due = .reset :: rest →
    ∃ t, step s = .next t ∧ t.aud = State.reset.aud ∧ t.dsp = State.reset.dsp ∧ t.syn = State.reset.syn ∧
      (∀ a, memRead t.smp a = 0) ∧ (∀ a, memRead t.fb a = 0) ∧
      t.fgIn = s.fgIn ∧ t.evIn = s.evIn ∧ t.due = rest ∧ t.responses = s.responses ∧ t.dac = s.dac

/-- The state after reset, with any commands presented at the ports (log entries 1, 2, 9), satisfies the invariants. -/
def Obligations.StartedStateMeetsTheInvariants : Prop :=
  ∀ (fg ev : List Word) (due : List Due), (State.started fg ev due).Inv ∧ (State.started fg ev due).dsp.countersOk

/-- Every step, from every state that meets the invariants: the roles stay a permutation (R200 a), the divisor and the
band stay at least 1 once initialised (R37, R38, R47 a), `frames_repeated` stays 0 and `max_drift >= 0 >= min_drift`
(R42 to R44), both memories stay in canonical form inside their spaces. -/
def Obligations.EveryStepKeepsTheInvariants : Prop :=
  ∀ s t : State, s.Inv → step s = .next t → t.Inv

/-- Every run of every program from reset: whatever commands are presented at the ports, in whatever order, every number
of steps leads to a state, and that state meets the invariants. That the streams and their order stand in the first
state, and that a step with nothing due is a step, is the model's choice (log entries 1, 2, 9). -/
def Obligations.EveryRunFromResetKeepsTheInvariants : Prop :=
  ∀ (fg ev : List Word) (due : List Due) (n : Nat),
    ∃ t : State, Host.Core.run Sys2Proof.core n (State.started fg ev due) = .next t ∧ t.Inv

/-- The terminal lifecycle states are left only by reset (R300): in ERROR and in STOPPED every step but a reset keeps the
state. -/
def Obligations.TerminalStatesAreLeftOnlyByReset : Prop :=
  ∀ s t : State, step s = .next t → (∀ rest, s.due ≠ .reset :: rest) →
    (s.aud.state = .error → t.aud.state = .error) ∧ (s.syn.state = .stopped → t.syn.state = .stopped)

/-! ## Responses and rejections -/

/-- R14: every operation answers exactly one response, on its own port; where the status is not OK the value is 0 and
nothing else changed (R261). No operation answers ILLEGAL_OP: that is the decoder's. -/
def Obligations.EveryOperationAnswersOnce : Prop :=
  ∀ (i : Instr) (s : State), ∃ t r, exec i s = .next t ∧ t.responses = s.responses ++ [r] ∧ r.port = i.port ∧
    r.status ≠ .illegalOp ∧ (r.status ≠ .ok → t = s.answer i.port r.status 0)

/-- R263: every cause of BAD_STATE, and no other. -/
def Obligations.BadStateCauses : Prop :=
  ∀ (i : Instr) (s : State), exec i s = .next (s.answer i.port .badState 0) ↔
    ((∃ b, i = .audInit b) ∧ s.aud.state ≠ .reset) ∨ (i = .audStart ∧ s.aud.state ≠ .ready) ∨
    (i = .audStop ∧ s.aud.state ≠ .playing) ∨ (i = .audErr ∧ s.aud.state ≠ .playing) ∨
    (i = .dspInit ∧ s.dsp.transferBusy = true) ∨ ((∃ off, i = .xferRd off) ∧ s.dsp.transferBusy = false) ∨
    (i = .dspDone ∧ s.dsp.transferBusy = false) ∨
    ((∃ w1 w2 w3, i = .synInit w1 w2 w3) ∧ s.syn.state ≠ .reset) ∨ (i = .synStart ∧ s.syn.state ≠ .ready) ∨
    (i = .synStop ∧ s.syn.state ≠ .running) ∨ (i = .synAframe ∧ s.syn.samplesPerFrame = 0)

/-- R262 with R267: every cause of INVALID_PARAM, and no other. A sample index cannot be out of range when `N` is 2048,
and SYN_INIT outside RESET answers BAD_STATE whatever its operands. -/
def Obligations.InvalidParamCauses : Prop :=
  ∀ (i : Instr) (s : State), exec i s = .next (s.answer i.port .invalidParam 0) ↔
    (∃ w1 w2 w3, i = .synInit w1 w2 w3 ∧ s.syn.state = .reset ∧ (w2 = 0 ∨ w1.toNat / w2.toNat = 0)) ∨
    (∃ addr b, i = .fbWr addr b ∧ 3072 ≤ addr.toNat) ∨ (∃ addr, i = .fbRd addr ∧ 3072 ≤ addr.toNat) ∨
    (∃ reg, i = .rdreg reg ∧ ¬(reg.toNat ≤ 0x04 ∨ (0x10 ≤ reg.toNat ∧ reg.toNat ≤ 0x13) ∨
      (0x20 ≤ reg.toNat ∧ reg.toNat ≤ 0x2A)))

/-- R91: the reads of the memories and of the registers change no state. Every one of them answers its response and
leaves everything else as it was; the value is stated with each operation. -/
def Obligations.ReadsChangeNoState : Prop :=
  ∀ (idx addr : BitVec 12) (off : BitVec 10) (reg : BitVec 8) (s : State),
    ∀ i ∈ [Instr.smpRdl idx, .smpRdr idx, .fbRd addr, .xferRd off, .audNeedsRefill, .audGetFillHalf, .audGetLbuf,
        .audGetRbuf, .dspGetRender, .dspHasFrame, .dspGetXfer, .synAframe, .rdreg reg],
      ∃ st v, exec i s = .next (s.answer i.port st v) ∧ exec i (s.answer i.port st v) =
        .next ((s.answer i.port st v).answer i.port st v)

/-- R279: what the operations of port EV leave unchanged. -/
def Obligations.EventPortWritesOnlyItsRegisters : Prop :=
  ∀ (i : Instr) (s t : State), i.port = .ev → exec i s = .next t →
    t.aud.syncAttached = s.aud.syncAttached ∧ t.aud.refillCount = s.aud.refillCount ∧
    (t.aud.state = s.aud.state ∨ t.aud.state = .error) ∧ (s.aud.needsRefill = true → t.aud.needsRefill = true) ∧
    t.dsp.render = s.dsp.render ∧ t.dsp.ready = s.dsp.ready ∧ t.dsp.transfer = s.dsp.transfer ∧
    t.dsp.framesRendered = s.dsp.framesRendered ∧ (s.dsp.transferBusy = false → t.dsp.transferBusy = false) ∧
    t.syn = { s.syn with audioSamplesPlayed := t.syn.audioSamplesPlayed } ∧ t.smp = s.smp ∧ t.fb = s.fb ∧
    t.fgIn = s.fgIn ∧ t.evIn = s.evIn ∧ t.due = s.due

/-- R279: what the operations of port FG leave unchanged, unless they initialise the unit or start the sequencer. -/
def Obligations.ForegroundPortWritesOnlyItsRegisters : Prop :=
  ∀ (i : Instr) (s t : State), i.port = .fg → exec i s = .next t →
    ((∀ b, i ≠ .audInit b) → (i ≠ .audStart → t.aud.pos = s.aud.pos) ∧ t.aud.fillHalf = s.aud.fillHalf ∧
      (s.aud.needsRefill = false → t.aud.needsRefill = false) ∧ t.aud.samplesPlayed = s.aud.samplesPlayed ∧
      t.aud.underrunCount = s.aud.underrunCount ∧ (t.aud.state = .error → s.aud.state = .error)) ∧
    (i ≠ .dspInit → t.dsp.framesTransferred = s.dsp.framesTransferred ∧
      (s.dsp.transferBusy = true → t.dsp.transferBusy = true)) ∧
    ((∀ w1 w2 w3, i ≠ .synInit w1 w2 w3) → t.syn.audioSamplesPlayed = s.syn.audioSamplesPlayed) ∧
    t.dac = s.dac ∧ t.fgIn = s.fgIn ∧ t.evIn = s.evIn ∧ t.due = s.due

/-- R285: one DAC record per TRIG performed in PLAYING, holding the pair at the position, and none otherwise. That the
output stands in State as a list is the model's choice (log entry 6). -/
def Obligations.DacRecordsComeFromTriggersAlone : Prop :=
  ∀ (i : Instr) (s t : State), exec i s = .next t →
    (i = .trig ∧ s.aud.state = .playing →
      t.dac = s.dac ++ [⟨s.left s.aud.pos.toNat, s.right s.aud.pos.toNat⟩]) ∧
    (¬(i = .trig ∧ s.aud.state = .playing) → t.dac = s.dac)

/-! ## AUD unit -/

/-- R167: the lifecycle of the AUD unit. Every pair not listed is a rejection with BAD_STATE and no change, and every
other operation of the unit leaves `aud.state` as it is and is accepted. -/
def Obligations.AudLifecycle : Prop :=
  ∀ (s : State) (b : Bool) (idx : BitVec 12) (val : Sample),
    (s.aud.state = .reset → ∃ t, exec (.audInit b) s = .next t ∧ t.aud.state = .ready) ∧
    (s.aud.state = .ready → ∃ t, exec .audStart s = .next t ∧ t.aud.state = .playing) ∧
    (s.aud.state = .playing → ∃ t, exec .audStop s = .next t ∧ t.aud.state = .ready) ∧
    (s.aud.state = .playing → ∃ t, exec .audErr s = .next t ∧ t.aud.state = .error) ∧
    (s.aud.state ≠ .reset → exec (.audInit b) s = .next (s.answer .fg .badState 0)) ∧
    (s.aud.state ≠ .ready → exec .audStart s = .next (s.answer .fg .badState 0)) ∧
    (s.aud.state ≠ .playing → exec .audStop s = .next (s.answer .fg .badState 0)) ∧
    (s.aud.state ≠ .playing → exec .audErr s = .next (s.answer .ev .badState 0)) ∧
    (∀ i ∈ [Instr.audNeedsRefill, .audGetFillHalf, .audFilled, .audGetLbuf, .audGetRbuf, .smpWrl idx val,
        .smpWrr idx val, .smpRdl idx, .smpRdr idx, .trig, .audHt, .audTc],
      ∃ t r, exec i s = .next t ∧ t.responses = s.responses ++ [r] ∧ r.status = .ok ∧ t.aud.state = s.aud.state)

/-- R150: AUD_INIT. From RESET every element of both channel buffers is silence and the registers are as listed; in any
other state it is rejected. -/
def Obligations.AudInitFillsBothBuffersWithSilence : Prop :=
  decode .fg [0x01000000] = .ok (.audInit false) ∧ decode .fg [0x01000001] = .ok (.audInit true) ∧
  ∀ (s : State) (b : Bool),
    (s.aud.state = .reset → ∃ m : Mem 12,
      exec (.audInit b) s = .next (({ s with
        smp := m,
        aud := { state := .ready, needsRefill := false, fillHalf := .first, syncAttached := b, samplesPlayed := 0,
                 refillCount := 0, underrunCount := 0, pos := 0 } } : State).answer .fg .ok 0) ∧
      (∀ a < 8192, memRead m a = 0x800) ∧ memWf Config.smpSize m = true) ∧
    (s.aud.state ≠ .reset → exec (.audInit b) s = .next (s.answer .fg .badState 0))

/-- R151, R152, R166: AUD_START, AUD_STOP and AUD_ERR, each with its encoding, its effect and its rejection. -/
def Obligations.AudStartStopAndErr : Prop :=
  decode .fg [0x02000000] = .ok .audStart ∧ decode .fg [0x03000000] = .ok .audStop ∧
  decode .ev [0x83000000] = .ok .audErr ∧
  ∀ s : State,
    (s.aud.state = .ready → exec .audStart s =
      .next (({ s with aud := { s.aud with pos := 0, state := .playing } } : State).answer .fg .ok 0)) ∧
    (s.aud.state ≠ .ready → exec .audStart s = .next (s.answer .fg .badState 0)) ∧
    (s.aud.state = .playing → exec .audStop s =
      .next (({ s with aud := { s.aud with state := .ready } } : State).answer .fg .ok 0)) ∧
    (s.aud.state ≠ .playing → exec .audStop s = .next (s.answer .fg .badState 0)) ∧
    (s.aud.state = .playing → exec .audErr s =
      .next (({ s with aud := { s.aud with state := .error } } : State).answer .ev .ok 0)) ∧
    (s.aud.state ≠ .playing → exec .audErr s = .next (s.answer .ev .badState 0))

/-- R153, R154, R156, R157: the four polls of the AUD unit, each with its encoding and its value. -/
def Obligations.AudPolls : Prop :=
  decode .fg [0x04000000] = .ok .audNeedsRefill ∧ decode .fg [0x05000000] = .ok .audGetFillHalf ∧
  decode .fg [0x07000000] = .ok .audGetLbuf ∧ decode .fg [0x08000000] = .ok .audGetRbuf ∧
  ∀ s : State,
    (s.aud.needsRefill = false → exec .audNeedsRefill s = .next (s.answer .fg .ok 0)) ∧
    (s.aud.needsRefill = true → exec .audNeedsRefill s = .next (s.answer .fg .ok 1)) ∧
    (s.aud.fillHalf = .first → exec .audGetFillHalf s = .next (s.answer .fg .ok 0)) ∧
    (s.aud.fillHalf = .second → exec .audGetFillHalf s = .next (s.answer .fg .ok 1)) ∧
    exec .audGetLbuf s = .next (s.answer .fg .ok 0) ∧ exec .audGetRbuf s = .next (s.answer .fg .ok 4096)

/-- R155: AUD_FILLED clears the request, whether or not one was pending, and counts one refill modulo 2^32. -/
def Obligations.AudFilledAcknowledges : Prop :=
  decode .fg [0x06000000] = .ok .audFilled ∧
  ∀ s : State, ∃ c : Word, c.toNat = (s.aud.refillCount.toNat + 1) % 2 ^ 32 ∧
    exec .audFilled s =
      .next (({ s with aud := { s.aud with needsRefill := false, refillCount := c } } : State).answer .fg .ok 0)

/-- R158, R159: SMP_WRL and SMP_WRR, each with its encoding, performed in every state and into either half: the one element the index names holds
the value, and every other element of both channels is as it was. -/
def Obligations.SampleStoresWriteOneElement : Prop :=
  ∀ (s : State) (idx : BitVec 12) (val : Sample), memWf Config.smpSize s.smp = true →
    decode .fg [BitVec.ofNat 32 (0x09000000 + 2 ^ 12 * idx.toNat + val.toNat)] = .ok (.smpWrl idx val) ∧
    decode .fg [BitVec.ofNat 32 (0x0A000000 + 2 ^ 12 * idx.toNat + val.toNat)] = .ok (.smpWrr idx val) ∧
    leftAddr idx = idx.toNat ∧ rightAddr idx = 4096 + idx.toNat ∧
    (∃ m : Mem 12, exec (.smpWrl idx val) s = .next (({ s with smp := m } : State).answer .fg .ok 0) ∧
      memRead m (leftAddr idx) = val ∧ (∀ a, a ≠ leftAddr idx → memRead m a = memRead s.smp a) ∧
      memWf Config.smpSize m = true) ∧
    (∃ m : Mem 12, exec (.smpWrr idx val) s = .next (({ s with smp := m } : State).answer .fg .ok 0) ∧
      memRead m (rightAddr idx) = val ∧ (∀ a, a ≠ rightAddr idx → memRead m a = memRead s.smp a) ∧
      memWf Config.smpSize m = true)

/-- R160, R161: SMP_RDL and SMP_RDR, each with its encoding, answer the element the index names and change nothing; a
header with a bit of `val` set is illegal. -/
def Obligations.SampleLoadsReadOneElement : Prop :=
  ∀ (s : State) (idx val : BitVec 12), ∃ l r : Word,
    decode .fg [BitVec.ofNat 32 (0x0B000000 + 2 ^ 12 * idx.toNat + val.toNat)] =
      (if val = 0 then .ok (.smpRdl idx) else .error .nonzeroBits) ∧
    decode .fg [BitVec.ofNat 32 (0x0C000000 + 2 ^ 12 * idx.toNat + val.toNat)] =
      (if val = 0 then .ok (.smpRdr idx) else .error .nonzeroBits) ∧
    l.toNat = (s.left idx.toNat).toNat ∧ r.toNat = (s.right idx.toNat).toNat ∧
    exec (.smpRdl idx) s = .next (s.answer .fg .ok l) ∧ exec (.smpRdr idx) s = .next (s.answer .fg .ok r)

/-- R162, R164, R165: AUD_HT and AUD_TC, in every lifecycle state. The underrun test uses the flag as it was; the tick of
`N` is forwarded when a synchroniser is attached and counted when it is RUNNING. -/
def Obligations.AudioEventsRequestARefill : Prop :=
  decode .ev [0x81000000] = .ok .audHt ∧ decode .ev [0x82000000] = .ok .audTc ∧
  ∀ (s : State), ∀ e ∈ [(Instr.audHt, Half.first), (.audTc, .second)],
    ∃ played underruns ticked : Word,
      played.toNat = (s.aud.samplesPlayed.toNat + 2048) % 2 ^ 32 ∧
      underruns.toNat = (if s.aud.needsRefill then s.aud.underrunCount.toNat + 1
        else s.aud.underrunCount.toNat) % 2 ^ 32 ∧
      ticked.toNat = (if s.aud.syncAttached = true ∧ s.syn.state = .running then s.syn.audioSamplesPlayed.toNat + 2048
        else s.syn.audioSamplesPlayed.toNat) % 2 ^ 32 ∧
      exec e.1 s = .next (({ s with
        aud := { s.aud with fillHalf := e.2, needsRefill := true, samplesPlayed := played, underrunCount := underruns },
        syn := { s.syn with audioSamplesPlayed := ticked } } : State).answer .ev .ok 0)

/-- R163: TRIG. In PLAYING the pair at the position goes to the DAC and the position advances modulo `2N`; the trigger
that delivers sample `N - 1` performs AUD_HT and the one that delivers sample `2N - 1` performs AUD_TC, inside the same
operation. Outside PLAYING it is accepted and does nothing. -/
def Obligations.TriggerDeliversOnePair : Prop :=
  decode .ev [0x80000000] = .ok .trig ∧
  ∀ (s : State),
    (s.aud.state ≠ .playing → exec .trig s = .next (s.answer .ev .ok 0)) ∧
    (s.aud.state = .playing → ∃ p : BitVec 12, p.toNat = (s.aud.pos.toNat + 1) % 4096 ∧
      let moved : State := { s with
        dac := s.dac ++ [⟨s.left s.aud.pos.toNat, s.right s.aud.pos.toNat⟩], aud := { s.aud with pos := p } }
      (s.aud.pos.toNat = 2047 → exec .trig s = exec .audHt moved) ∧
      (s.aud.pos.toNat = 4095 → exec .trig s = exec .audTc moved) ∧
      (s.aud.pos.toNat ≠ 2047 → s.aud.pos.toNat ≠ 4095 → exec .trig s = .next (moved.answer .ev .ok 0)))

/-- One half-buffer of triggers (R163): from the start of a half, PLAYING, no trigger before the `N`-th raises an event,
and the `N`-th raises the half's event. The `N` pairs delivered are the half's samples in order, the position is at the
start of the other half, one refill is requested, and memory, display and configuration are untouched. -/
def Obligations.HalfBufferOfTriggers : Prop :=
  ∀ (s : State), ∀ e ∈ [(0, Half.first), (2048, Half.second)], s.aud.state = .playing → s.aud.pos.toNat = e.1 →
    (∀ k < 2048, ∃ t, execAll (trigN k) s = .next t ∧
      t.aud = { s.aud with pos := BitVec.ofNat 12 (e.1 + k) } ∧ t.syn = s.syn) ∧
    (∃ t, execAll (trigN 2048) s = .next t ∧
      t.dac = s.dac ++ (List.range 2048).map (fun k => ⟨s.left (e.1 + k), s.right (e.1 + k)⟩) ∧
      t.aud.state = .playing ∧ t.aud.pos.toNat = (e.1 + 2048) % 4096 ∧ t.aud.fillHalf = e.2 ∧
      t.aud.needsRefill = true ∧ t.aud.samplesPlayed = s.aud.samplesPlayed + 2048 ∧
      t.aud.underrunCount = (if s.aud.needsRefill then s.aud.underrunCount + 1 else s.aud.underrunCount) ∧
      t.aud.refillCount = s.aud.refillCount ∧ t.aud.syncAttached = s.aud.syncAttached ∧
      t.syn = { s.syn with audioSamplesPlayed :=
        if s.aud.syncAttached = true ∧ s.syn.state = .running then s.syn.audioSamplesPlayed + 2048
        else s.syn.audioSamplesPlayed } ∧
      t.dsp = s.dsp ∧ t.smp = s.smp ∧ t.fb = s.fb)

/-- R170, step by step: the half named for the foreground is free when it is not the half that is playing. A trigger
that raises an event makes the named half free, a trigger that raises none keeps it free if it was, and while it is free
a store into the named half touches no element of the playing half. Nothing is claimed of a state whose named half is
not free, such as the one after AUD_START before the first event, or after an AUD_HT issued directly. -/
def Obligations.TriggersKeepTheNamedHalfFree : Prop :=
  (∀ s t : State, s.aud.state = .playing → exec .trig s = .next t →
    (s.namedHalfFree ∨ s.aud.pos.toNat = 2047 ∨ s.aud.pos.toNat = 4095) → t.namedHalfFree) ∧
  (∀ (s : State) (idx : BitVec 12) (val : Sample), s.namedHalfFree → halfOfIndex idx.toNat = s.aud.fillHalf →
    ∀ i ∈ [Instr.smpWrl idx val, .smpWrr idx val], s.ownershipAllows i = true ∧
      ∃ t, exec i s = .next t ∧ t.playingHalf = s.playingHalf ∧
        ∀ k < 4096, halfOfIndex k = s.playingHalf → t.left k = s.left k ∧ t.right k = s.right k)

/-- The foreground's refill (R77, R124, R155): the question, `N` stores to each channel and the acknowledgement put the
two values into every sample of the named half and into no other, clear the request, and count one refill. -/
def Obligations.RefillFillsTheNamedHalf : Prop :=
  ∀ (s : State) (l r : Sample), memWf Config.smpSize s.smp = true →
    ∃ t, execAll (refill s.aud.fillHalf l r) s = .next t ∧
      (∀ k < 4096, t.left k = (if halfOfIndex k = s.aud.fillHalf then l else s.left k) ∧
        t.right k = (if halfOfIndex k = s.aud.fillHalf then r else s.right k)) ∧
      t.aud = { s.aud with needsRefill := false, refillCount := s.aud.refillCount + 1 } ∧
      t.dsp = s.dsp ∧ t.syn = s.syn ∧ t.fb = s.fb ∧ t.dac = s.dac

/-- R308: an acknowledgement that comes after a second event clears that event's request too, so that the event after
it counts no underrun. -/
def Obligations.LateAcknowledgementSwallowsTheRequest : Prop :=
  ∀ s : State, s.aud.needsRefill = false →
    ∃ t u, execAll [.audHt, .audTc, .audFilled] s = .next t ∧ t.aud.needsRefill = false ∧ t.aud.fillHalf = .second ∧
      t.aud.underrunCount = s.aud.underrunCount + 1 ∧ t.aud.refillCount = s.aud.refillCount + 1 ∧
      exec .audHt t = .next u ∧ u.aud.underrunCount = t.aud.underrunCount

/-! ## DSP unit -/

/-- R190: DSP_INIT, with its rejection while a transfer is in flight. The framebuffers are not touched. -/
def Obligations.DspInitRestoresTheInitialRoles : Prop :=
  decode .fg [0x10000000] = .ok .dspInit ∧
  ∀ s : State,
    (s.dsp.transferBusy = true → exec .dspInit s = .next (s.answer .fg .badState 0)) ∧
    (s.dsp.transferBusy = false → exec .dspInit s = .next (({ s with
      dsp := { render := 0, ready := 2, transfer := 1, transferBusy := false, framesRendered := 0,
               framesTransferred := 0 } } : State).answer .fg .ok 0))

/-- R191, R193, R195: the three polls of the DSP unit. -/
def Obligations.DspPolls : Prop :=
  decode .fg [0x11000000] = .ok .dspGetRender ∧ decode .fg [0x13000000] = .ok .dspHasFrame ∧
  decode .fg [0x15000000] = .ok .dspGetXfer ∧
  ∀ s : State, ∃ r x : Word, r.toNat = 1024 * s.dsp.render.val ∧ x.toNat = 1024 * s.dsp.transfer.val ∧
    exec .dspGetRender s = .next (s.answer .fg .ok r) ∧ exec .dspGetXfer s = .next (s.answer .fg .ok x) ∧
    (s.dsp.framesRendered.toNat > s.dsp.framesTransferred.toNat →
      exec .dspHasFrame s = .next (s.answer .fg .ok 1)) ∧
    (¬s.dsp.framesRendered.toNat > s.dsp.framesTransferred.toNat →
      exec .dspHasFrame s = .next (s.answer .fg .ok 0))

/-- R192: DSP_SWAP exchanges render and ready, whether or not a transfer is busy, and counts one frame modulo 2^32. -/
def Obligations.SwapQueuesTheRenderedFrame : Prop :=
  decode .fg [0x12000000] = .ok .dspSwap ∧
  ∀ s : State, ∃ c : Word, c.toNat = (s.dsp.framesRendered.toNat + 1) % 2 ^ 32 ∧
    exec .dspSwap s = .next (({ s with
      dsp := { s.dsp with render := s.dsp.ready, ready := s.dsp.render, framesRendered := c } } : State).answer .fg .ok 0)

/-- R194: DSP_START_XFER exchanges ready and transfer and sets busy when idle with a frame counted, and otherwise answers
0 with status OK and changes nothing. -/
def Obligations.StartTransferExchangesOrAnswersFalse : Prop :=
  decode .fg [0x14000000] = .ok .dspStartXfer ∧
  ∀ s : State,
    (s.dsp.transferBusy = false → s.dsp.framesRendered.toNat > s.dsp.framesTransferred.toNat →
      exec .dspStartXfer s = .next (({ s with
        dsp := { s.dsp with ready := s.dsp.transfer, transfer := s.dsp.ready, transferBusy := true } } : State).answer
          .fg .ok 1)) ∧
    (s.dsp.transferBusy = true ∨ ¬s.dsp.framesRendered.toNat > s.dsp.framesTransferred.toNat →
      exec .dspStartXfer s = .next (s.answer .fg .ok 0))

/-- R198, R199: XFER_RD and DSP_DONE, each with its encoding. XFER_RD reads the addressed byte of the transfer slot and DSP_DONE ends the transfer; both are rejected
when no transfer is in flight. -/
def Obligations.TransferReadsAndCompletion : Prop :=
  decode .ev [0x84000000] = .ok .dspDone ∧
  ∀ (s : State) (off : BitVec 10),
    decode .ev [BitVec.ofNat 32 (0x86000000 + 2 ^ 8 * off.toNat)] = .ok (.xferRd off) ∧
    (s.dsp.transferBusy = true → ∃ v c : Word, v.toNat = (s.frameByte s.dsp.transfer off.toNat).toNat ∧
      c.toNat = (s.dsp.framesTransferred.toNat + 1) % 2 ^ 32 ∧
      exec (.xferRd off) s = .next (s.answer .ev .ok v) ∧
      exec .dspDone s = .next (({ s with
        dsp := { s.dsp with transferBusy := false, framesTransferred := c } } : State).answer .ev .ok 0)) ∧
    (s.dsp.transferBusy = false → exec (.xferRd off) s = .next (s.answer .ev .badState 0) ∧
      exec .dspDone s = .next (s.answer .ev .badState 0))

/-- R196, R197: FB_WR and FB_RD, each with its encoding. Below 3072 the addressed byte, and no other, is written or read; at 3072 and above both
are rejected with INVALID_PARAM. -/
def Obligations.FramebufferStoresAndLoads : Prop :=
  ∀ (s : State) (addr : BitVec 12) (b : Byte), memWf Config.fbMemSize s.fb = true →
    decode .fg [BitVec.ofNat 32 (0x16000000 + 2 ^ 8 * addr.toNat + b.toNat)] = .ok (.fbWr addr b) ∧
    decode .fg [BitVec.ofNat 32 (0x17000000 + 2 ^ 8 * addr.toNat + b.toNat)] =
      (if b = 0 then .ok (.fbRd addr) else .error .nonzeroBits) ∧
    (addr.toNat < 3072 →
      (∃ m : Mem 8, exec (.fbWr addr b) s = .next (({ s with fb := m } : State).answer .fg .ok 0) ∧
        memRead m addr.toNat = b ∧ (∀ a, a ≠ addr.toNat → memRead m a = memRead s.fb a) ∧
        memWf Config.fbMemSize m = true) ∧
      (∃ v : Word, v.toNat = (memRead s.fb addr.toNat).toNat ∧
        exec (.fbRd addr) s = .next (s.answer .fg .ok v))) ∧
    (3072 ≤ addr.toNat → exec (.fbWr addr b) s = .next (s.answer .fg .invalidParam 0) ∧
      exec (.fbRd addr) s = .next (s.answer .fg .invalidParam 0))

/-- R200: (a) every operation keeps the three roles a permutation; (b) the transfer slot does not change while a
transfer is busy; (c) transfers never outnumber renders, before any wrap of `frames_rendered`. All three hold from
reset on. -/
def Obligations.DisplayInvariants : Prop :=
  (State.reset.dsp.rolesDistinct ∧ State.reset.dsp.countersOk) ∧
  ∀ (i : Instr) (s t : State), exec i s = .next t →
    (s.dsp.rolesDistinct → t.dsp.rolesDistinct) ∧
    (s.dsp.transferBusy = true → t.dsp.transfer = s.dsp.transfer) ∧
    (s.dsp.countersOk → s.dsp.framesRendered.toNat + 1 < 2 ^ 32 → t.dsp.countersOk)

/-- R309: a foreground that writes only through the address DSP_GET_RENDER returns never writes the transfer slot: the
store respects ownership, and every byte the display DMA engine can read is as it was. -/
def Obligations.DrawingInTheRenderSlotNeverTears : Prop :=
  ∀ (s : State) (addr : BitVec 12) (b : Byte), s.dsp.rolesDistinct →
    slotBase s.dsp.render ≤ addr.toNat → addr.toNat < slotBase s.dsp.render + 1024 →
    s.ownershipAllows (.fbWr addr b) = true ∧
    ∃ t, exec (.fbWr addr b) s = .next t ∧ t.dsp = s.dsp ∧
      ∀ o < 1024, t.frameByte s.dsp.transfer o = s.frameByte s.dsp.transfer o

/-- A frame's life (R192, R194, R202): from an idle display with no wrap at hand, the frame drawn in the render slot,
once queued and started, is the one in the transfer slot, its bytes as they were drawn, and every XFER_RD reads them. -/
def Obligations.QueuedFrameIsTheFrameSent : Prop :=
  ∀ s : State, s.dsp.transferBusy = false → s.dsp.framesTransferred.toNat ≤ s.dsp.framesRendered.toNat →
    s.dsp.framesRendered.toNat + 1 < 2 ^ 32 →
    ∃ t, execAll [.dspSwap, .dspStartXfer] s = .next t ∧ t.dsp.transfer = s.dsp.render ∧
      t.dsp.transferBusy = true ∧ t.dsp.render = s.dsp.ready ∧ t.dsp.ready = s.dsp.transfer ∧
      ∀ off : BitVec 10, ∃ v : Word, v.toNat = (s.frameByte s.dsp.render off.toNat).toNat ∧
        exec (.xferRd off) t = .next (t.answer .ev .ok v)

/-- R201: superseded frames still count. Two swaps before a transfer leave, after that transfer, a frame counted as
waiting: DSP_HAS_FRAME answers 1 and a further DSP_START_XFER succeeds and sends the slot that was the transfer slot
before the first transfer. -/
def Obligations.SupersededFrameStillCounts : Prop :=
  ∀ s : State, s.dsp.transferBusy = false → s.dsp.framesTransferred = s.dsp.framesRendered →
    s.dsp.framesRendered.toNat + 2 < 2 ^ 32 →
    ∃ t u, execAll [.dspSwap, .dspSwap, .dspStartXfer, .dspDone] s = .next t ∧
      exec .dspHasFrame t = .next (t.answer .fg .ok 1) ∧
      t.dsp.framesRendered = t.dsp.framesTransferred + 1 ∧
      exec .dspStartXfer t = .next u ∧ u.dsp.transferBusy = true ∧ u.dsp.transfer = s.dsp.transfer

/-! ## SYN unit -/

/-- R220, R267: SYN_INIT. Outside RESET it is rejected with BAD_STATE whatever its operands; in RESET a zero frame rate
or a quotient of 0 is rejected with INVALID_PARAM; otherwise the configuration is as computed and the counters and
statistics are 0. -/
def Obligations.SynInitConfiguresOrRejects : Prop :=
  ∀ (s : State) (w1 w2 w3 : Word),
    decode .fg [0x20000000, w1, w2, w3] = .ok (.synInit w1 w2 w3) ∧
    (s.syn.state ≠ .reset → exec (.synInit w1 w2 w3) s = .next (s.answer .fg .badState 0)) ∧
    (s.syn.state = .reset → (w2 = 0 ∨ w1.toNat < w2.toNat) →
      exec (.synInit w1 w2 w3) s = .next (s.answer .fg .invalidParam 0)) ∧
    (s.syn.state = .reset → w2 ≠ 0 → w2.toNat ≤ w1.toNat → ∃ spf band : Word,
      spf.toNat = w1.toNat / w2.toNat ∧ band.toNat = (if w3 = 0 then 2 else w3.toNat) ∧
      exec (.synInit w1 w2 w3) s = .next (({ s with
        syn := { state := .ready, sampleRate := w1, videoFps := w2, samplesPerFrame := spf, maxDriftFrames := band,
                 audioSamplesPlayed := 0, videoFramesRendered := 0, framesSkipped := 0, framesRepeated := 0,
                 maxDrift := 0, minDrift := 0 } } : State).answer .fg .ok 0))

/-- R221, R222: SYN_START and SYN_STOP, each with its encoding, its effect and its rejection. -/
def Obligations.SynStartAndStop : Prop :=
  decode .fg [0x21000000] = .ok .synStart ∧ decode .fg [0x22000000] = .ok .synStop ∧
  ∀ s : State,
    (s.syn.state = .ready → exec .synStart s =
      .next (({ s with syn := { s.syn with state := .running } } : State).answer .fg .ok 0)) ∧
    (s.syn.state ≠ .ready → exec .synStart s = .next (s.answer .fg .badState 0)) ∧
    (s.syn.state = .running → exec .synStop s =
      .next (({ s with syn := { s.syn with state := .stopped } } : State).answer .fg .ok 0)) ∧
    (s.syn.state ≠ .running → exec .synStop s = .next (s.answer .fg .badState 0))

/-- R223: SYN_TICK, with its encoding, adds its count modulo 2^32 in RUNNING and does nothing in any other state. -/
def Obligations.TickCountsOnlyWhileRunning : Prop :=
  ∀ (s : State) (cnt : BitVec 24),
    decode .ev [BitVec.ofNat 32 (0x85000000 + cnt.toNat)] = .ok (.synTick cnt) ∧
    (s.syn.state = .running → ∃ c : Word, c.toNat = (s.syn.audioSamplesPlayed.toNat + cnt.toNat) % 2 ^ 32 ∧
      exec (.synTick cnt) s =
        .next (({ s with syn := { s.syn with audioSamplesPlayed := c } } : State).answer .ev .ok 0)) ∧
    (s.syn.state ≠ .running → exec (.synTick cnt) s = .next (s.answer .ev .ok 0))

/-- R39, R47 e: no operation but an accepted SYN_INIT changes `syn.audio_samples_played` outside RUNNING, and only
SYN_TICK and the audio events change it in RUNNING. -/
def Obligations.SampleCountMovesOnlyWhileRunning : Prop :=
  ∀ (i : Instr) (s t : State), exec i s = .next t → t.syn.audioSamplesPlayed ≠ s.syn.audioSamplesPlayed →
    ((∃ w1 w2 w3, i = .synInit w1 w2 w3) ∧ s.syn.state = .reset) ∨
    (s.syn.state = .running ∧ ((∃ cnt, i = .synTick cnt) ∨
      (s.aud.syncAttached = true ∧ (i = .audHt ∨ i = .audTc ∨ (i = .trig ∧ s.aud.state = .playing)))))

/-- R224, R225: SYN_DECIDE over the mathematical integers. In RUNNING the drift is the 32-bit difference of the frame
counter and the truncated quotient, read as signed; the statistics become its running maximum and minimum; the answer is
1 below the band, 2 above it, 0 inside it, the band inclusive. In any other state it answers 3 and changes nothing. -/
def Obligations.DecideComparesTheDriftWithTheBand : Prop :=
  decode .fg [0x23000000] = .ok .synDecide ∧
  ∀ s : State,
    (s.syn.state ≠ .running → exec .synDecide s = .next (s.answer .fg .ok 3)) ∧
    (s.syn.state = .running → 1 ≤ s.syn.samplesPerFrame.toNat → ∃ hi lo answer : Word,
      let afi : Int := (s.syn.audioSamplesPlayed.toNat / s.syn.samplesPerFrame.toNat : Nat)
      let drift : Int := ((s.syn.videoFramesRendered.toNat : Int) - afi).bmod (2 ^ 32)
      let band : Int := s.syn.maxDriftFrames.toNat
      hi.toInt = max s.syn.maxDrift.toInt drift ∧ lo.toInt = min s.syn.minDrift.toInt drift ∧
      answer.toNat = (if drift < -band then 1 else if drift > band then 2 else 0) ∧
      (2 ^ 31 ≤ band → answer = 0) ∧
      exec .synDecide s =
        .next (({ s with syn := { s.syn with maxDrift := hi, minDrift := lo } } : State).answer .fg .ok answer))

/-- R229: the decision law. In RUNNING, with `S` at least 1 and `|f - a/S| < 2^31`, the answer is RENDER_FRAME iff
`|f - a/S| <= D`, SKIP_FRAME iff `f - a/S < -D`, REPEAT_FRAME iff `f - a/S > D`. -/
def Obligations.DecisionLaw : Prop :=
  ∀ s : State, s.syn.state = .running → 1 ≤ s.syn.samplesPerFrame.toNat →
    let d : Int := (s.syn.videoFramesRendered.toNat : Int) -
      ((s.syn.audioSamplesPlayed.toNat / s.syn.samplesPerFrame.toNat : Nat) : Int)
    let band : Int := s.syn.maxDriftFrames.toNat
    |d| < 2 ^ 31 →
    ∃ t answer, exec .synDecide s = .next t ∧ t.responses = s.responses ++ [⟨.fg, .ok, answer⟩] ∧
      (answer = Decision.renderFrame.code ↔ |d| ≤ band) ∧ (answer = Decision.skipFrame.code ↔ d < -band) ∧
      (answer = Decision.repeatFrame.code ↔ d > band)

/-- R226, R227: SYN_RENDERED and SYN_SKIPPED, accepted in every state, count modulo 2^32. -/
def Obligations.RenderedAndSkippedFramesCount : Prop :=
  decode .fg [0x24000000] = .ok .synRendered ∧ decode .fg [0x25000000] = .ok .synSkipped ∧
  ∀ s : State, ∃ f k : Word, f.toNat = (s.syn.videoFramesRendered.toNat + 1) % 2 ^ 32 ∧
    k.toNat = (s.syn.framesSkipped.toNat + 1) % 2 ^ 32 ∧
    exec .synRendered s = .next (({ s with syn := { s.syn with videoFramesRendered := f } } : State).answer .fg .ok 0) ∧
    exec .synSkipped s = .next (({ s with
      syn := { s.syn with videoFramesRendered := f, framesSkipped := k } } : State).answer .fg .ok 0)

/-- R228: SYN_AFRAME answers the truncated quotient, in every lifecycle state, and is rejected while the divisor is 0. -/
def Obligations.AudioFrameIndexIsTheQuotient : Prop :=
  decode .fg [0x26000000] = .ok .synAframe ∧
  ∀ s : State,
    (s.syn.samplesPerFrame = 0 → exec .synAframe s = .next (s.answer .fg .badState 0)) ∧
    (s.syn.samplesPerFrame ≠ 0 → ∃ v : Word,
      v.toNat = s.syn.audioSamplesPlayed.toNat / s.syn.samplesPerFrame.toNat ∧
      exec .synAframe s = .next (s.answer .fg .ok v))

/-- R230: the lifecycle of the SYN unit. Every pair not listed is a rejection with BAD_STATE and no change; the five
other operations never change `syn.state`. -/
def Obligations.SynLifecycle : Prop :=
  ∀ (s : State) (w1 w2 w3 : Word) (cnt : BitVec 24),
    (s.syn.state = .reset → w2 ≠ 0 → w2.toNat ≤ w1.toNat →
      ∃ t, exec (.synInit w1 w2 w3) s = .next t ∧ t.syn.state = .ready) ∧
    (s.syn.state = .ready → ∃ t, exec .synStart s = .next t ∧ t.syn.state = .running) ∧
    (s.syn.state = .running → ∃ t, exec .synStop s = .next t ∧ t.syn.state = .stopped) ∧
    (s.syn.state ≠ .reset → exec (.synInit w1 w2 w3) s = .next (s.answer .fg .badState 0)) ∧
    (s.syn.state ≠ .ready → exec .synStart s = .next (s.answer .fg .badState 0)) ∧
    (s.syn.state ≠ .running → exec .synStop s = .next (s.answer .fg .badState 0)) ∧
    (∀ i ∈ [Instr.synTick cnt, .synDecide, .synRendered, .synSkipped, .synAframe], ∀ t, exec i s = .next t →
      t.syn.state = s.syn.state)

/-! ## System -/

/-- R45, R250: RDREG, with its encoding, answers every listed register in its layout, and INVALID_PARAM for every unlisted number; it
changes nothing. -/
def Obligations.RegisterReadsFollowTheLayout : Prop :=
  ∀ (s : State) (reg : BitVec 8), decode .fg [BitVec.ofNat 32 (0x30000000 + reg.toNat)] = .ok (.rdreg reg) ∧
    ∃ f : Nat → Nat,
    f 0x00 = (match s.aud.state with | .reset => 0 | .ready => 1 | .playing => 2 | .error => 3) ∧
    f 0x01 = s.aud.needsRefill.toNat + 2 * (match s.aud.fillHalf with | .first => 0 | .second => 1) +
      4 * s.aud.syncAttached.toNat ∧
    f 0x02 = s.aud.samplesPlayed.toNat ∧ f 0x03 = s.aud.refillCount.toNat ∧ f 0x04 = s.aud.underrunCount.toNat ∧
    f 0x10 = s.dsp.render.val + 4 * s.dsp.ready.val + 16 * s.dsp.transfer.val ∧
    f 0x11 = s.dsp.transferBusy.toNat ∧ f 0x12 = s.dsp.framesRendered.toNat ∧
    f 0x13 = s.dsp.framesTransferred.toNat ∧
    f 0x20 = (match s.syn.state with | .reset => 0 | .ready => 1 | .running => 2 | .stopped => 3) ∧
    f 0x21 = s.syn.sampleRate.toNat ∧ f 0x22 = s.syn.videoFps.toNat ∧ f 0x23 = s.syn.samplesPerFrame.toNat ∧
    f 0x24 = s.syn.maxDriftFrames.toNat ∧ f 0x25 = s.syn.audioSamplesPlayed.toNat ∧
    f 0x26 = s.syn.videoFramesRendered.toNat ∧ f 0x27 = s.syn.framesSkipped.toNat ∧
    f 0x28 = s.syn.framesRepeated.toNat ∧ f 0x29 = s.syn.maxDrift.toNat ∧ f 0x2A = s.syn.minDrift.toNat ∧
    ((reg.toNat ≤ 0x04 ∨ (0x10 ≤ reg.toNat ∧ reg.toNat ≤ 0x13) ∨ (0x20 ≤ reg.toNat ∧ reg.toNat ≤ 0x2A)) →
      exec (.rdreg reg) s = .next (s.answer .fg .ok (BitVec.ofNat 32 (f reg.toNat)))) ∧
    (¬(reg.toNat ≤ 0x04 ∨ (0x10 ≤ reg.toNat ∧ reg.toNat ≤ 0x13) ∨ (0x20 ≤ reg.toNat ∧ reg.toNat ≤ 0x2A)) →
      exec (.rdreg reg) s = .next (s.answer .fg .invalidParam 0))
end

