-- ==== Sys2Proof/Laws/Decode.lean ====
section
/-! SUPPORT. What the formats put where: one lemma per field and one per mask for each format; and what the operations
on the ports' streams can do. -/

namespace Sys2Proof

/-! ## Fields of the formats -/

theorem opcodeOf_formatZ (op : BitVec 8) : opcodeOf (formatZ op) = op := by
  apply BitVec.eq_of_getLsbD_eq
  intro i hi
  unfold opcodeOf formatZ
  simp only [BitVec.getLsbD_extractLsb', BitVec.getLsbD_append]
  simp [hi]

theorem opcodeOf_formatI (op : BitVec 8) (imm : BitVec 24) : opcodeOf (formatI op imm) = op := by
  apply BitVec.eq_of_getLsbD_eq
  intro i hi
  unfold opcodeOf formatI
  simp only [BitVec.getLsbD_extractLsb', BitVec.getLsbD_append]
  simp [hi]

theorem cntField_formatI (op : BitVec 8) (imm : BitVec 24) : cntField (formatI op imm) = imm := by
  apply BitVec.eq_of_getLsbD_eq
  intro i hi
  unfold cntField formatI
  simp only [BitVec.getLsbD_extractLsb', BitVec.getLsbD_append]
  simp [hi]

theorem regField_formatI (op : BitVec 8) (reg : BitVec 8) : regField (formatI op (0#16 ++ reg)) = reg := by
  apply BitVec.eq_of_getLsbD_eq
  intro i hi
  unfold regField formatI
  simp only [BitVec.getLsbD_extractLsb', BitVec.getLsbD_append]
  have h : i < 24 := by omega
  simp [hi, h]

theorem opcodeOf_formatS (op : BitVec 8) (idx val : BitVec 12) : opcodeOf (formatS op idx val) = op := by
  apply BitVec.eq_of_getLsbD_eq
  intro i hi
  unfold opcodeOf formatS
  simp only [BitVec.getLsbD_extractLsb', BitVec.getLsbD_append]
  have h1 : ¬24 + i < 12 := by omega
  have h2 : ¬24 + i - 12 < 12 := by omega
  have h3 : 24 + i - 12 - 12 = i := by omega
  simp only [hi, h1, h2, h3, decide_true, Bool.true_and, if_false]

theorem idxField_formatS (op : BitVec 8) (idx val : BitVec 12) : idxField (formatS op idx val) = idx := by
  apply BitVec.eq_of_getLsbD_eq
  intro i hi
  unfold idxField formatS
  simp only [BitVec.getLsbD_extractLsb', BitVec.getLsbD_append]
  simp [hi]

theorem valField_formatS (op : BitVec 8) (idx val : BitVec 12) : valField (formatS op idx val) = val := by
  apply BitVec.eq_of_getLsbD_eq
  intro i hi
  unfold valField formatS
  simp only [BitVec.getLsbD_extractLsb', BitVec.getLsbD_append]
  simp [hi]

theorem opcodeOf_formatA (op : BitVec 8) (addr : BitVec 12) (byte : BitVec 8) :
    opcodeOf (formatA op addr byte) = op := by
  apply BitVec.eq_of_getLsbD_eq
  intro i hi
  unfold opcodeOf formatA
  simp only [BitVec.getLsbD_extractLsb', BitVec.getLsbD_append]
  have h1 : ¬24 + i < 8 := by omega
  have h2 : ¬24 + i - 8 < 12 := by omega
  have h3 : ¬24 + i - 8 - 12 < 4 := by omega
  have h4 : 24 + i - 8 - 12 - 4 = i := by omega
  simp only [hi, h1, h2, h3, h4, decide_true, Bool.true_and, if_false]

theorem addrField_formatA (op : BitVec 8) (addr : BitVec 12) (byte : BitVec 8) :
    addrField (formatA op addr byte) = addr := by
  apply BitVec.eq_of_getLsbD_eq
  intro i hi
  unfold addrField formatA
  simp only [BitVec.getLsbD_extractLsb', BitVec.getLsbD_append]
  simp [hi]

theorem byteField_formatA (op : BitVec 8) (addr : BitVec 12) (byte : BitVec 8) :
    byteField (formatA op addr byte) = byte := by
  apply BitVec.eq_of_getLsbD_eq
  intro i hi
  unfold byteField formatA
  simp only [BitVec.getLsbD_extractLsb', BitVec.getLsbD_append]
  simp [hi]

theorem offField_formatA (op : BitVec 8) (off : BitVec 10) (byte : BitVec 8) :
    offField (formatA op (0#2 ++ off) byte) = off := by
  apply BitVec.eq_of_getLsbD_eq
  intro i hi
  unfold offField formatA
  simp only [BitVec.getLsbD_extractLsb', BitVec.getLsbD_append]
  have h : i < 12 := by omega
  simp [hi, h]

/-! ## Masks of the formats: what a row's mask keeps of a header -/

theorem formatI_and (op op' : BitVec 8) (imm imm' : BitVec 24) :
    formatI op imm &&& formatI op' imm' = formatI (op &&& op') (imm &&& imm') := by
  unfold formatI
  exact BitVec.and_append (x₁ := op) (x₂ := op') (y₁ := imm) (y₂ := imm')

theorem formatS_and (op op' : BitVec 8) (idx idx' val val' : BitVec 12) :
    formatS op idx val &&& formatS op' idx' val' = formatS (op &&& op') (idx &&& idx') (val &&& val') := by
  unfold formatS
  have h := BitVec.and_append (x₁ := op ++ idx) (x₂ := op' ++ idx') (y₁ := val) (y₂ := val')
  have h' := BitVec.and_append (x₁ := op) (x₂ := op') (y₁ := idx) (y₂ := idx')
  exact h.trans (congrArg (· ++ (val &&& val')) h')

/-- Under any mask, given by its four fields. -/
theorem formatA_and (op op' : BitVec 8) (z : BitVec 4) (addr addr' : BitVec 12) (byte byte' : BitVec 8) :
    formatA op addr byte &&& (op' ++ z ++ addr' ++ byte' : BitVec 32) =
      formatA (op &&& op') (addr &&& addr') (byte &&& byte') := by
  unfold formatA
  have h := BitVec.and_append (x₁ := op ++ 0#4 ++ addr) (x₂ := op' ++ z ++ addr') (y₁ := byte) (y₂ := byte')
  have h' := BitVec.and_append (x₁ := op ++ 0#4) (x₂ := op' ++ z) (y₁ := addr) (y₂ := addr')
  have h'' := BitVec.and_append (x₁ := op) (x₂ := op') (y₁ := 0#4) (y₂ := z)
  rw [BitVec.zero_and] at h''
  exact (h.trans (congrArg (· ++ (byte &&& byte')) h')).trans
    (congrArg (fun x : BitVec (8 + 4) => x ++ (addr &&& addr') ++ (byte &&& byte')) h'')

/-! ## The formats as numbers -/

theorem formatZ_eq_ofNat (op : BitVec 8) : formatZ op = BitVec.ofNat 32 (op.toNat * 2 ^ 24) := by
  apply BitVec.eq_of_toNat_eq
  have h := op.isLt
  unfold formatZ
  rw [BitVec.toNat_append, BitVec.toNat_ofNat, BitVec.toNat_ofNat, ← Nat.shiftLeft_add_eq_or_of_lt (by omega),
    Nat.shiftLeft_eq]
  omega

theorem formatI_eq_ofNat (op : BitVec 8) (imm : BitVec 24) :
    formatI op imm = BitVec.ofNat 32 (op.toNat * 2 ^ 24 + imm.toNat) := by
  apply BitVec.eq_of_toNat_eq
  have h := op.isLt
  have h' := imm.isLt
  unfold formatI
  rw [BitVec.toNat_append, BitVec.toNat_ofNat, ← Nat.shiftLeft_add_eq_or_of_lt h', Nat.shiftLeft_eq]
  omega

theorem formatS_eq_ofNat (op : BitVec 8) (idx val : BitVec 12) :
    formatS op idx val = BitVec.ofNat 32 (op.toNat * 2 ^ 24 + idx.toNat * 2 ^ 12 + val.toNat) := by
  apply BitVec.eq_of_toNat_eq
  have h := op.isLt
  have h' := idx.isLt
  have h'' := val.isLt
  unfold formatS
  rw [BitVec.toNat_append, BitVec.toNat_append, BitVec.toNat_ofNat, ← Nat.shiftLeft_add_eq_or_of_lt h'',
    ← Nat.shiftLeft_add_eq_or_of_lt h', Nat.shiftLeft_eq, Nat.shiftLeft_eq]
  omega

theorem formatA_eq_ofNat (op : BitVec 8) (addr : BitVec 12) (byte : BitVec 8) :
    formatA op addr byte = BitVec.ofNat 32 (op.toNat * 2 ^ 24 + addr.toNat * 2 ^ 8 + byte.toNat) := by
  apply BitVec.eq_of_toNat_eq
  have h := op.isLt
  have h' := addr.isLt
  have h'' := byte.isLt
  unfold formatA
  rw [BitVec.toNat_append, BitVec.toNat_append, BitVec.toNat_append, BitVec.toNat_ofNat,
    ← Nat.shiftLeft_add_eq_or_of_lt h'', ← Nat.shiftLeft_add_eq_or_of_lt h', Nat.zero_mod, Nat.or_zero,
    Nat.shiftLeft_eq, Nat.shiftLeft_eq, Nat.shiftLeft_eq, BitVec.toNat_ofNat]
  omega

/-! ## The port class of the formats -/

theorem portClass_of_opcode (h : Word) : portClass h = if (opcodeOf h).msb then .ev else .fg := by
  have hm : (opcodeOf h).msb = h.msb := by
    unfold opcodeOf
    rw [BitVec.msb_eq_getLsbD_last, BitVec.msb_eq_getLsbD_last, BitVec.getLsbD_extractLsb']
    rfl
  rw [hm]; rfl

/-! ## A header from its fields -/

theorem formatI_fields (h : Word) : formatI (opcodeOf h) (cntField h) = h := by
  apply BitVec.eq_of_getLsbD_eq
  intro i hi
  unfold formatI opcodeOf cntField
  simp only [BitVec.getLsbD_append, BitVec.getLsbD_extractLsb']
  by_cases h1 : i < 24
  · simp [h1]
  · have h2 : i - 24 < 8 := by omega
    have h3 : 24 + (i - 24) = i := by omega
    simp [h1, h2, h3]

theorem formatS_fields (h : Word) : formatS (opcodeOf h) (idxField h) (valField h) = h := by
  apply BitVec.eq_of_getLsbD_eq
  intro i hi
  unfold formatS opcodeOf idxField valField
  simp only [BitVec.getLsbD_append, BitVec.getLsbD_extractLsb']
  by_cases h1 : i < 12
  · simp [h1]
  · by_cases h2 : i - 12 < 12
    · have h3 : 12 + (i - 12) = i := by omega
      simp [h1, h2, h3]
    · have h4 : i - 12 - 12 < 8 := by omega
      have h5 : 24 + (i - 12 - 12) = i := by omega
      simp only [h1, h2, h4, h5, if_false, decide_true, Bool.true_and]

/-! ## Commands in a port's stream (R120) -/

theorem commandLength_pos (p : Port) (h : Word) : 0 < commandLength p h := by
  cases p
  · show 0 < if opcodeOf h = 0x20 then 4 else 1
    split <;> decide
  · exact Nat.one_pos

/-- A whole command at the head of a stream is what is taken, and the words after it are left. -/
theorem takeCommand_append {p : Port} {h : Word} {ops : List Word} (rest : List Word)
    (len : ops.length + 1 = commandLength p h) :
    takeCommand p (h :: ops ++ rest) = some (h :: ops, rest) := by
  have hn : ¬(h :: (ops ++ rest)).length < commandLength p h := by
    simp only [List.length_cons, List.length_append]; omega
  have hl : commandLength p h = (h :: ops).length := by simp [len]
  simp only [takeCommand, List.cons_append, if_neg hn]
  rw [hl, ← List.cons_append, List.take_left, List.drop_left]

/-- What is taken is a whole command, and with what is left it is the stream. -/
theorem takeCommand_eq_some {p : Port} {ws cmd rest : List Word} (h : takeCommand p ws = some (cmd, rest)) :
    ws = cmd ++ rest ∧ ∃ hd ops, cmd = hd :: ops ∧ ops.length + 1 = commandLength p hd := by
  cases ws with
  | nil => simp [takeCommand] at h
  | cons w tail =>
    simp only [takeCommand] at h
    split at h
    · cases h
    · rename_i hn
      simp only [Option.some.injEq, Prod.mk.injEq] at h
      obtain ⟨rfl, rfl⟩ := h
      refine ⟨(List.take_append_drop _ _).symm, w, tail.take (commandLength p w - 1), ?_, ?_⟩
      · obtain ⟨k, hk⟩ := Nat.exists_eq_succ_of_ne_zero (commandLength_pos p w).ne'
        rw [hk]; rfl
      · have := commandLength_pos p w
        simp only [List.length_cons] at hn
        rw [List.length_take]; omega

end Sys2Proof

namespace Sys2Proof.Machine

/-! ## Events due together (R94, R276) -/

theorem isDisplayEvent_of_isAudioEvent {w : Word} (h : isAudioEvent w = true) : isDisplayEvent w = false := by
  unfold isAudioEvent at h
  unfold isDisplayEvent
  split at h <;> simp_all

/-- What `pickNonDisplay` picks has only display events before it. -/
theorem pickNonDisplay_eq_some {n : Nat} {ws rest : List Word} {w : Word} (h : pickNonDisplay n ws = some (w, rest)) :
    ∃ pre post, ws = pre ++ w :: post ∧ rest = pre ++ post ∧ pre.length < n ∧ isDisplayEvent w = false ∧
      ∀ v ∈ pre, isDisplayEvent v = true := by
  induction n generalizing ws rest w with
  | zero => simp [pickNonDisplay] at h
  | succ n ih =>
    cases ws with
    | nil => simp [pickNonDisplay] at h
    | cons v tail =>
      simp only [pickNonDisplay] at h
      split at h
      · rename_i hv
        rw [Option.map_eq_some_iff] at h
        obtain ⟨⟨x, r⟩, hp, he⟩ := h
        simp only [Prod.mk.injEq] at he
        obtain ⟨rfl, rfl⟩ := he
        obtain ⟨pre, post, rfl, rfl, hl, hw, hpre⟩ := ih hp
        exact ⟨v :: pre, post, rfl, rfl, by simp only [List.length_cons]; omega, hw, List.forall_mem_cons.2 ⟨hv, hpre⟩⟩
      · rename_i hv
        simp only [Option.some.injEq, Prod.mk.injEq] at h
        obtain ⟨rfl, rfl⟩ := h
        exact ⟨[], tail, rfl, rfl, by simp, by simpa using hv, by simp⟩

/-- Where one of the first `n` words is no display event, `pickNonDisplay` picks one. -/
theorem pickNonDisplay_isSome {n : Nat} {ws : List Word} (h : ∃ w ∈ ws.take n, isDisplayEvent w = false) :
    (pickNonDisplay n ws).isSome = true := by
  induction n generalizing ws with
  | zero => simp at h
  | succ n ih =>
    cases ws with
    | nil => simp at h
    | cons v tail =>
      simp only [pickNonDisplay]
      split
      · rename_i hv
        rw [Option.isSome_map]
        apply ih
        obtain ⟨w, hw, hd⟩ := h
        rw [List.take_succ_cons] at hw
        rcases List.mem_cons.mp hw with rfl | hw
        · rw [hv] at hd; cases hd
        · exact ⟨w, hw, hd⟩
      · rfl

/-- With no audio event due, the commands of port EV keep the order they were issued in. -/
theorem takeEvent_of_no_audio {n : Nat} {w : Word} {rest : List Word}
    (h : ∀ v ∈ (w :: rest).take n, isAudioEvent v = false) : takeEvent n (w :: rest) = some (w, rest) := by
  have ha : ((w :: rest).take n).any isAudioEvent = false := by simpa using h
  simp [takeEvent, ha]

/-- With an audio event due, the first command that is no display event is taken. -/
theorem takeEvent_of_audio {n : Nat} {ws : List Word} (h : ∃ v ∈ ws.take n, isAudioEvent v = true) :
    ∃ pre w post, ws = pre ++ w :: post ∧ takeEvent n ws = some (w, pre ++ post) ∧ pre.length < n ∧
      isDisplayEvent w = false ∧ ∀ v ∈ pre, isDisplayEvent v = true := by
  have ha : (ws.take n).any isAudioEvent = true := List.any_eq_true.2 h
  obtain ⟨v, hv, hva⟩ := h
  obtain ⟨⟨w, rest⟩, hp⟩ := Option.isSome_iff_exists.1
    (pickNonDisplay_isSome ⟨v, hv, isDisplayEvent_of_isAudioEvent hva⟩)
  obtain ⟨pre, post, h1, rfl, h3, h4, h5⟩ := pickNonDisplay_eq_some hp
  exact ⟨pre, w, post, h1, by simp [takeEvent, ha, hp], h3, h4, h5⟩

/-- Everything `takeEvent` can do to a stream that is not empty: it takes one command, and only display events, for an
audio event due with them, are overtaken. -/
theorem takeEvent_cases (n : Nat) {ws : List Word} (h : ws ≠ []) :
    ∃ pre w post, ws = pre ++ w :: post ∧ takeEvent n ws = some (w, pre ++ post) ∧
      (∀ v ∈ pre, isDisplayEvent v = true) ∧ (pre ≠ [] → ∃ v ∈ ws.take n, isAudioEvent v = true) := by
  by_cases ha : ∃ v ∈ ws.take n, isAudioEvent v = true
  · obtain ⟨pre, w, post, h1, h2, -, -, h5⟩ := takeEvent_of_audio ha
    exact ⟨pre, w, post, h1, h2, h5, fun _ => ha⟩
  · cases ws with
    | nil => exact absurd rfl h
    | cons w rest =>
      refine ⟨[], w, rest, rfl, takeEvent_of_no_audio fun v hv => ?_, by simp, by simp⟩
      exact Bool.not_eq_true _ ▸ fun he => ha ⟨v, hv, he⟩

/-- A single event due takes the first word of the stream. -/
theorem takeEvent_one (w : Word) (rest : List Word) : takeEvent 1 (w :: rest) = some (w, rest) := by
  by_cases ha : ∃ v ∈ (w :: rest).take 1, isAudioEvent v = true
  · obtain ⟨pre, x, post, h1, h2, h3, -⟩ := takeEvent_of_audio ha
    obtain rfl : pre = [] := List.length_eq_zero_iff.1 (by omega)
    obtain ⟨rfl, rfl⟩ := List.cons_eq_cons.1 h1
    exact h2
  · exact takeEvent_of_no_audio fun v hv => Bool.not_eq_true _ ▸ fun he => ha ⟨v, hv, he⟩

/-- Where a word is presented, one is taken. -/
theorem takeEvent_isSome (n : Nat) (w : Word) (rest : List Word) : (takeEvent n (w :: rest)).isSome = true := by
  obtain ⟨_, _, _, -, h, -⟩ := takeEvent_cases n (List.cons_ne_nil w rest)
  rw [h]; rfl

/-! ## Everything a fetch can do -/

/-- A fetch that performs no command: nothing due, a reset, an empty instant, or a turn whose port holds no whole
command. -/
theorem fetch_quiet {s t : State} (h : fetch s = .quiet t) :
    (s.due = [] ∧ t = s) ∨
      (∃ rest, s.due = .reset :: rest ∧ t = State.applyReset { s with due := rest }) ∨
      (∃ ev fg rest due', s.due = .commands ev fg :: rest ∧ t = { s with due := due' }) := by
  unfold fetch at h
  split at h
  · cases h; exact .inl ⟨‹_›, rfl⟩
  · cases h; exact .inr (.inl ⟨_, ‹_›, rfl⟩)
  · cases h; exact .inr (.inr ⟨_, _, _, _, ‹_›, rfl⟩)
  · split at h
    · cases h
    · cases h; exact .inr (.inr ⟨_, _, _, _, ‹_›, rfl⟩)
  · split at h
    · cases h
    · cases h; exact .inr (.inr ⟨_, _, _, _, ‹_›, rfl⟩)

/-- A fetch that yields a command changes only the ports: the words are a whole command of the port. -/
theorem fetch_command {s t : State} {p : Port} {ws : List Word} (h : fetch s = .command p ws t) :
    (∃ hd ops, ws = hd :: ops ∧ ops.length + 1 = commandLength p hd) ∧
      ∃ fgIn evIn due, t = { s with fgIn := fgIn, evIn := evIn, due := due } := by
  unfold fetch at h
  split at h
  · cases h
  · cases h
  · cases h
  · split at h
    · rename_i ht
      cases h
      exact ⟨(takeCommand_eq_some ht).2, _, _, _, rfl⟩
    · cases h
  · split at h
    · cases h
      exact ⟨⟨_, [], rfl, rfl⟩, _, _, _, rfl⟩
    · cases h

end Sys2Proof.Machine
end

