-- ==== Sys2Proof/Laws/Memory.lean ====
section
/-! SUPPORT. The memory laws: a read after a write, the canonical form under every memory operation, and the fill. -/

namespace Sys2Proof.Machine

variable {w : Nat}

theorem memWfFrom_mono {lo lo' size : Nat} {m : Mem w} (h : memWfFrom lo size m = true) (le : lo' ≤ lo) :
    memWfFrom lo' size m = true := by
  cases m with
  | nil => rfl
  | cons c rest =>
    simp only [memWfFrom, Bool.and_eq_true, decide_eq_true_eq] at h ⊢
    exact ⟨⟨⟨le.trans h.1.1.1, h.1.1.2⟩, h.1.2⟩, h.2⟩

/-- Below the first address of a canonical memory every element is 0. -/
theorem memRead_below {lo size : Nat} {m : Mem w} (h : memWfFrom lo size m = true) {a : Nat} (ha : a < lo) :
    memRead m a = 0 := by
  induction m generalizing lo with
  | nil => rfl
  | cons c rest ih =>
    simp only [memWfFrom, Bool.and_eq_true, decide_eq_true_eq] at h
    have hne : a ≠ c.1 := by omega
    rw [memRead, if_neg hne]
    exact ih h.2 (by omega)

/-- A write keeps the canonical form, at an address of the space. -/
theorem memWfFrom_memWrite {lo size : Nat} {m : Mem w} (h : memWfFrom lo size m = true) {a : Nat} (v : BitVec w)
    (hlo : lo ≤ a) (ha : a < size) : memWfFrom lo size (memWrite m a v) = true := by
  induction m generalizing lo with
  | nil =>
    unfold memWrite
    split
    · rfl
    · simp_all [memWfFrom]
  | cons c rest ih =>
    obtain ⟨b, x⟩ := c
    simp only [memWfFrom, Bool.and_eq_true, decide_eq_true_eq] at h
    obtain ⟨⟨⟨h1, h2⟩, h3⟩, h4⟩ := h
    unfold memWrite
    split
    · split
      · simp only [memWfFrom, Bool.and_eq_true, decide_eq_true_eq]
        exact ⟨⟨⟨h1, h2⟩, h3⟩, h4⟩
      · have : a + 1 ≤ b := by omega
        simp_all [memWfFrom]
    · split
      · split
        · exact memWfFrom_mono h4 (by omega)
        · subst_vars; simp_all [memWfFrom]
      · simp only [memWfFrom, Bool.and_eq_true, decide_eq_true_eq]
        exact ⟨⟨⟨h1, h2⟩, h3⟩, ih h4 (by omega)⟩

theorem memWf_memWrite {size : Nat} {m : Mem w} (h : memWf size m = true) {a : Nat} (v : BitVec w) (ha : a < size) :
    memWf size (memWrite m a v) = true :=
  memWfFrom_memWrite h v (Nat.zero_le a) ha

/-- A write leaves every other element alone. -/
theorem memRead_memWrite_other (m : Mem w) {a b : Nat} (v : BitVec w) (hne : b ≠ a) :
    memRead (memWrite m a v) b = memRead m b := by
  induction m with
  | nil => unfold memWrite; split <;> simp [memRead, hne]
  | cons c rest ih =>
    obtain ⟨c, x⟩ := c
    unfold memWrite
    split
    · split <;> simp [memRead, hne]
    · split
      · subst_vars
        split <;> simp [memRead, hne]
      · simp [memRead, ih]

theorem memRead_memWrite_same_from {lo size : Nat} {m : Mem w} (h : memWfFrom lo size m = true) (a : Nat)
    (v : BitVec w) : memRead (memWrite m a v) a = v := by
  induction m generalizing lo with
  | nil => unfold memWrite; split <;> simp_all [memRead]
  | cons c rest ih =>
    obtain ⟨b, x⟩ := c
    simp only [memWfFrom, Bool.and_eq_true, decide_eq_true_eq] at h
    unfold memWrite
    split
    · rename_i hlt
      split
      · have hne : a ≠ b := by omega
        rw [memRead, if_neg hne, memRead_below h.2 (by omega)]
        simp_all
      · simp [memRead]
    · split
      · subst_vars
        split
        · rw [memRead_below h.2 (by omega)]; simp_all
        · simp [memRead]
      · rename_i hne
        rw [memRead, if_neg hne]
        exact ih h.2

/-- A read after a write to the same place gives the value written. -/
theorem memRead_memWrite_same {size : Nat} {m : Mem w} (h : memWf size m = true) (a : Nat) (v : BitVec w) :
    memRead (memWrite m a v) a = v :=
  memRead_memWrite_same_from h a v

theorem memRead_map_range' (v : BitVec w) (lo n a : Nat) :
    memRead ((List.range' lo n).map fun b => (b, v)) a = if lo ≤ a ∧ a < lo + n then v else 0 := by
  induction n generalizing lo with
  | zero =>
    have : ¬(lo ≤ a ∧ a < lo + 0) := by omega
    rw [if_neg this]; rfl
  | succ n ih =>
    rw [List.range'_succ, List.map_cons, memRead, ih]
    by_cases h : a = lo
    · subst h; simp
    · rw [if_neg h]
      by_cases h2 : lo + 1 ≤ a ∧ a < lo + 1 + n
      · rw [if_pos h2, if_pos (by omega)]
      · rw [if_neg h2, if_neg (by omega)]

/-- After a fill every element of the space reads the value, and nothing stands outside it. -/
theorem memRead_memFill (size : Nat) (v : BitVec w) (a : Nat) :
    memRead (memFill size v) a = if a < size then v else 0 := by
  unfold memFill
  split
  · simp_all [memRead]
  · rw [List.range_eq_range', memRead_map_range']; simp

theorem memWfFrom_map_range' {v : BitVec w} (hv : v ≠ 0) (lo n size : Nat) (h : lo + n ≤ size) :
    memWfFrom lo size ((List.range' lo n).map fun b => (b, v)) = true := by
  induction n generalizing lo with
  | zero => rfl
  | succ n ih =>
    rw [List.range'_succ, List.map_cons, memWfFrom, ih (lo + 1) (by omega)]
    simp only [Bool.and_eq_true, decide_eq_true_eq, Bool.and_true]
    exact ⟨⟨le_rfl, by omega⟩, hv⟩

/-- A fill is in canonical form. -/
theorem memWf_memFill (size : Nat) (v : BitVec w) : memWf size (memFill size v) = true := by
  unfold memFill
  split
  · rfl
  · rename_i hv
    rw [List.range_eq_range']
    exact memWfFrom_map_range' hv 0 size size (by omega)

/-- A memory is in canonical form when it lists nothing. -/
theorem memWf_nil (size : Nat) : memWf size ([] : Mem w) = true := rfl

end Sys2Proof.Machine
end

