-- ==== Sys2Proof/Laws/State.lean ====
section
/-! SUPPORT. One lemma per field per update of the state and of the units' registers, so that no proof unfolds a
record update. -/

namespace Sys2Proof.Machine

/-! ### `State.setAud` -/

@[simp] theorem State.setAud_aud (s : State) (a : Aud) : (s.setAud a).aud = a := rfl
@[simp] theorem State.setAud_dsp (s : State) (a : Aud) : (s.setAud a).dsp = s.dsp := rfl
@[simp] theorem State.setAud_syn (s : State) (a : Aud) : (s.setAud a).syn = s.syn := rfl
@[simp] theorem State.setAud_smp (s : State) (a : Aud) : (s.setAud a).smp = s.smp := rfl
@[simp] theorem State.setAud_fb (s : State) (a : Aud) : (s.setAud a).fb = s.fb := rfl
@[simp] theorem State.setAud_fgIn (s : State) (a : Aud) : (s.setAud a).fgIn = s.fgIn := rfl
@[simp] theorem State.setAud_evIn (s : State) (a : Aud) : (s.setAud a).evIn = s.evIn := rfl
@[simp] theorem State.setAud_due (s : State) (a : Aud) : (s.setAud a).due = s.due := rfl
@[simp] theorem State.setAud_responses (s : State) (a : Aud) : (s.setAud a).responses = s.responses := rfl
@[simp] theorem State.setAud_dac (s : State) (a : Aud) : (s.setAud a).dac = s.dac := rfl

/-! ### `State.setDsp` -/

@[simp] theorem State.setDsp_aud (s : State) (d : Dsp) : (s.setDsp d).aud = s.aud := rfl
@[simp] theorem State.setDsp_dsp (s : State) (d : Dsp) : (s.setDsp d).dsp = d := rfl
@[simp] theorem State.setDsp_syn (s : State) (d : Dsp) : (s.setDsp d).syn = s.syn := rfl
@[simp] theorem State.setDsp_smp (s : State) (d : Dsp) : (s.setDsp d).smp = s.smp := rfl
@[simp] theorem State.setDsp_fb (s : State) (d : Dsp) : (s.setDsp d).fb = s.fb := rfl
@[simp] theorem State.setDsp_fgIn (s : State) (d : Dsp) : (s.setDsp d).fgIn = s.fgIn := rfl
@[simp] theorem State.setDsp_evIn (s : State) (d : Dsp) : (s.setDsp d).evIn = s.evIn := rfl
@[simp] theorem State.setDsp_due (s : State) (d : Dsp) : (s.setDsp d).due = s.due := rfl
@[simp] theorem State.setDsp_responses (s : State) (d : Dsp) : (s.setDsp d).responses = s.responses := rfl
@[simp] theorem State.setDsp_dac (s : State) (d : Dsp) : (s.setDsp d).dac = s.dac := rfl

/-! ### `State.setSyn` -/

@[simp] theorem State.setSyn_aud (s : State) (y : Syn) : (s.setSyn y).aud = s.aud := rfl
@[simp] theorem State.setSyn_dsp (s : State) (y : Syn) : (s.setSyn y).dsp = s.dsp := rfl
@[simp] theorem State.setSyn_syn (s : State) (y : Syn) : (s.setSyn y).syn = y := rfl
@[simp] theorem State.setSyn_smp (s : State) (y : Syn) : (s.setSyn y).smp = s.smp := rfl
@[simp] theorem State.setSyn_fb (s : State) (y : Syn) : (s.setSyn y).fb = s.fb := rfl
@[simp] theorem State.setSyn_fgIn (s : State) (y : Syn) : (s.setSyn y).fgIn = s.fgIn := rfl
@[simp] theorem State.setSyn_evIn (s : State) (y : Syn) : (s.setSyn y).evIn = s.evIn := rfl
@[simp] theorem State.setSyn_due (s : State) (y : Syn) : (s.setSyn y).due = s.due := rfl
@[simp] theorem State.setSyn_responses (s : State) (y : Syn) : (s.setSyn y).responses = s.responses := rfl
@[simp] theorem State.setSyn_dac (s : State) (y : Syn) : (s.setSyn y).dac = s.dac := rfl

/-! ### `State.setSmp` -/

@[simp] theorem State.setSmp_aud (s : State) (m : Mem 12) : (s.setSmp m).aud = s.aud := rfl
@[simp] theorem State.setSmp_dsp (s : State) (m : Mem 12) : (s.setSmp m).dsp = s.dsp := rfl
@[simp] theorem State.setSmp_syn (s : State) (m : Mem 12) : (s.setSmp m).syn = s.syn := rfl
@[simp] theorem State.setSmp_smp (s : State) (m : Mem 12) : (s.setSmp m).smp = m := rfl
@[simp] theorem State.setSmp_fb (s : State) (m : Mem 12) : (s.setSmp m).fb = s.fb := rfl
@[simp] theorem State.setSmp_fgIn (s : State) (m : Mem 12) : (s.setSmp m).fgIn = s.fgIn := rfl
@[simp] theorem State.setSmp_evIn (s : State) (m : Mem 12) : (s.setSmp m).evIn = s.evIn := rfl
@[simp] theorem State.setSmp_due (s : State) (m : Mem 12) : (s.setSmp m).due = s.due := rfl
@[simp] theorem State.setSmp_responses (s : State) (m : Mem 12) : (s.setSmp m).responses = s.responses := rfl
@[simp] theorem State.setSmp_dac (s : State) (m : Mem 12) : (s.setSmp m).dac = s.dac := rfl

/-! ### `State.setFb` -/

@[simp] theorem State.setFb_aud (s : State) (m : Mem 8) : (s.setFb m).aud = s.aud := rfl
@[simp] theorem State.setFb_dsp (s : State) (m : Mem 8) : (s.setFb m).dsp = s.dsp := rfl
@[simp] theorem State.setFb_syn (s : State) (m : Mem 8) : (s.setFb m).syn = s.syn := rfl
@[simp] theorem State.setFb_smp (s : State) (m : Mem 8) : (s.setFb m).smp = s.smp := rfl
@[simp] theorem State.setFb_fb (s : State) (m : Mem 8) : (s.setFb m).fb = m := rfl
@[simp] theorem State.setFb_fgIn (s : State) (m : Mem 8) : (s.setFb m).fgIn = s.fgIn := rfl
@[simp] theorem State.setFb_evIn (s : State) (m : Mem 8) : (s.setFb m).evIn = s.evIn := rfl
@[simp] theorem State.setFb_due (s : State) (m : Mem 8) : (s.setFb m).due = s.due := rfl
@[simp] theorem State.setFb_responses (s : State) (m : Mem 8) : (s.setFb m).responses = s.responses := rfl
@[simp] theorem State.setFb_dac (s : State) (m : Mem 8) : (s.setFb m).dac = s.dac := rfl

/-! ### `State.emitDac` -/

@[simp] theorem State.emitDac_aud (s : State) (l r : Sample) : (s.emitDac l r).aud = s.aud := rfl
@[simp] theorem State.emitDac_dsp (s : State) (l r : Sample) : (s.emitDac l r).dsp = s.dsp := rfl
@[simp] theorem State.emitDac_syn (s : State) (l r : Sample) : (s.emitDac l r).syn = s.syn := rfl
@[simp] theorem State.emitDac_smp (s : State) (l r : Sample) : (s.emitDac l r).smp = s.smp := rfl
@[simp] theorem State.emitDac_fb (s : State) (l r : Sample) : (s.emitDac l r).fb = s.fb := rfl
@[simp] theorem State.emitDac_fgIn (s : State) (l r : Sample) : (s.emitDac l r).fgIn = s.fgIn := rfl
@[simp] theorem State.emitDac_evIn (s : State) (l r : Sample) : (s.emitDac l r).evIn = s.evIn := rfl
@[simp] theorem State.emitDac_due (s : State) (l r : Sample) : (s.emitDac l r).due = s.due := rfl
@[simp] theorem State.emitDac_responses (s : State) (l r : Sample) : (s.emitDac l r).responses = s.responses := rfl
@[simp] theorem State.emitDac_dac (s : State) (l r : Sample) : (s.emitDac l r).dac = s.dac ++ [⟨l, r⟩] := rfl

/-! ### `State.answer` -/

@[simp] theorem State.answer_aud (s : State) (p : Port) (st : Status) (v : Word) : (s.answer p st v).aud = s.aud := rfl
@[simp] theorem State.answer_dsp (s : State) (p : Port) (st : Status) (v : Word) : (s.answer p st v).dsp = s.dsp := rfl
@[simp] theorem State.answer_syn (s : State) (p : Port) (st : Status) (v : Word) : (s.answer p st v).syn = s.syn := rfl
@[simp] theorem State.answer_smp (s : State) (p : Port) (st : Status) (v : Word) : (s.answer p st v).smp = s.smp := rfl
@[simp] theorem State.answer_fb (s : State) (p : Port) (st : Status) (v : Word) : (s.answer p st v).fb = s.fb := rfl
@[simp] theorem State.answer_fgIn (s : State) (p : Port) (st : Status) (v : Word) : (s.answer p st v).fgIn = s.fgIn := rfl
@[simp] theorem State.answer_evIn (s : State) (p : Port) (st : Status) (v : Word) : (s.answer p st v).evIn = s.evIn := rfl
@[simp] theorem State.answer_due (s : State) (p : Port) (st : Status) (v : Word) : (s.answer p st v).due = s.due := rfl
@[simp] theorem State.answer_responses (s : State) (p : Port) (st : Status) (v : Word) : (s.answer p st v).responses = s.responses ++ [⟨p, st, v⟩] := rfl
@[simp] theorem State.answer_dac (s : State) (p : Port) (st : Status) (v : Word) : (s.answer p st v).dac = s.dac := rfl

/-! ### `State.applyReset` -/

@[simp] theorem State.applyReset_aud (s : State) : (s.applyReset).aud = Aud.atReset := rfl
@[simp] theorem State.applyReset_dsp (s : State) : (s.applyReset).dsp = Dsp.atReset := rfl
@[simp] theorem State.applyReset_syn (s : State) : (s.applyReset).syn = Syn.atReset := rfl
@[simp] theorem State.applyReset_smp (s : State) : (s.applyReset).smp = [] := rfl
@[simp] theorem State.applyReset_fb (s : State) : (s.applyReset).fb = [] := rfl
@[simp] theorem State.applyReset_fgIn (s : State) : (s.applyReset).fgIn = s.fgIn := rfl
@[simp] theorem State.applyReset_evIn (s : State) : (s.applyReset).evIn = s.evIn := rfl
@[simp] theorem State.applyReset_due (s : State) : (s.applyReset).due = s.due := rfl
@[simp] theorem State.applyReset_responses (s : State) : (s.applyReset).responses = s.responses := rfl
@[simp] theorem State.applyReset_dac (s : State) : (s.applyReset).dac = s.dac := rfl

/-! ### `Aud.requestRefill` -/

@[simp] theorem Aud.requestRefill_state (a : Aud) (h : Half) : (a.requestRefill h).state = a.state := rfl
@[simp] theorem Aud.requestRefill_needsRefill (a : Aud) (h : Half) : (a.requestRefill h).needsRefill = true := rfl
@[simp] theorem Aud.requestRefill_fillHalf (a : Aud) (h : Half) : (a.requestRefill h).fillHalf = h := rfl
@[simp] theorem Aud.requestRefill_syncAttached (a : Aud) (h : Half) : (a.requestRefill h).syncAttached = a.syncAttached := rfl
@[simp] theorem Aud.requestRefill_samplesPlayed (a : Aud) (h : Half) : (a.requestRefill h).samplesPlayed = a.samplesPlayed := rfl
@[simp] theorem Aud.requestRefill_refillCount (a : Aud) (h : Half) : (a.requestRefill h).refillCount = a.refillCount := rfl
@[simp] theorem Aud.requestRefill_underrunCount (a : Aud) (h : Half) : (a.requestRefill h).underrunCount = a.underrunCount := rfl
@[simp] theorem Aud.requestRefill_pos (a : Aud) (h : Half) : (a.requestRefill h).pos = a.pos := rfl

/-! ### `Aud.clearRefill` -/

@[simp] theorem Aud.clearRefill_state (a : Aud) : (a.clearRefill).state = a.state := rfl
@[simp] theorem Aud.clearRefill_needsRefill (a : Aud) : (a.clearRefill).needsRefill = false := rfl
@[simp] theorem Aud.clearRefill_fillHalf (a : Aud) : (a.clearRefill).fillHalf = a.fillHalf := rfl
@[simp] theorem Aud.clearRefill_syncAttached (a : Aud) : (a.clearRefill).syncAttached = a.syncAttached := rfl
@[simp] theorem Aud.clearRefill_samplesPlayed (a : Aud) : (a.clearRefill).samplesPlayed = a.samplesPlayed := rfl
@[simp] theorem Aud.clearRefill_refillCount (a : Aud) : (a.clearRefill).refillCount = a.refillCount := rfl
@[simp] theorem Aud.clearRefill_underrunCount (a : Aud) : (a.clearRefill).underrunCount = a.underrunCount := rfl
@[simp] theorem Aud.clearRefill_pos (a : Aud) : (a.clearRefill).pos = a.pos := rfl

/-! ### `Aud.countUnderrun` -/

@[simp] theorem Aud.countUnderrun_state (a : Aud) : (a.countUnderrun).state = a.state := by
  unfold Aud.countUnderrun; split <;> rfl
@[simp] theorem Aud.countUnderrun_needsRefill (a : Aud) : (a.countUnderrun).needsRefill = a.needsRefill := by
  unfold Aud.countUnderrun; split <;> rfl
@[simp] theorem Aud.countUnderrun_fillHalf (a : Aud) : (a.countUnderrun).fillHalf = a.fillHalf := by
  unfold Aud.countUnderrun; split <;> rfl
@[simp] theorem Aud.countUnderrun_syncAttached (a : Aud) : (a.countUnderrun).syncAttached = a.syncAttached := by
  unfold Aud.countUnderrun; split <;> rfl
@[simp] theorem Aud.countUnderrun_samplesPlayed (a : Aud) : (a.countUnderrun).samplesPlayed = a.samplesPlayed := by
  unfold Aud.countUnderrun; split <;> rfl
@[simp] theorem Aud.countUnderrun_refillCount (a : Aud) : (a.countUnderrun).refillCount = a.refillCount := by
  unfold Aud.countUnderrun; split <;> rfl
@[simp] theorem Aud.countUnderrun_underrunCount (a : Aud) : (a.countUnderrun).underrunCount = if a.needsRefill then a.underrunCount + 1 else a.underrunCount := by
  unfold Aud.countUnderrun; split <;> rfl
@[simp] theorem Aud.countUnderrun_pos (a : Aud) : (a.countUnderrun).pos = a.pos := by
  unfold Aud.countUnderrun; split <;> rfl

/-! ### `Aud.afterEvent` -/

@[simp] theorem Aud.afterEvent_state (a : Aud) (h : Half) : (a.afterEvent h).state = a.state := by
  simp [Aud.afterEvent]
@[simp] theorem Aud.afterEvent_needsRefill (a : Aud) (h : Half) : (a.afterEvent h).needsRefill = true := by
  simp [Aud.afterEvent]
@[simp] theorem Aud.afterEvent_fillHalf (a : Aud) (h : Half) : (a.afterEvent h).fillHalf = h := by
  simp [Aud.afterEvent]
@[simp] theorem Aud.afterEvent_syncAttached (a : Aud) (h : Half) : (a.afterEvent h).syncAttached = a.syncAttached := by
  simp [Aud.afterEvent]
@[simp] theorem Aud.afterEvent_samplesPlayed (a : Aud) (h : Half) : (a.afterEvent h).samplesPlayed = a.samplesPlayed + BitVec.ofNat 32 Config.N := by
  simp [Aud.afterEvent]
@[simp] theorem Aud.afterEvent_refillCount (a : Aud) (h : Half) : (a.afterEvent h).refillCount = a.refillCount := by
  simp [Aud.afterEvent]
@[simp] theorem Aud.afterEvent_underrunCount (a : Aud) (h : Half) : (a.afterEvent h).underrunCount = if a.needsRefill then a.underrunCount + 1 else a.underrunCount := by
  simp [Aud.afterEvent]
@[simp] theorem Aud.afterEvent_pos (a : Aud) (h : Half) : (a.afterEvent h).pos = a.pos := by
  simp [Aud.afterEvent]

/-! ### `Dsp.setBusy` -/

@[simp] theorem Dsp.setBusy_render (d : Dsp) : (d.setBusy).render = d.render := rfl
@[simp] theorem Dsp.setBusy_ready (d : Dsp) : (d.setBusy).ready = d.ready := rfl
@[simp] theorem Dsp.setBusy_transfer (d : Dsp) : (d.setBusy).transfer = d.transfer := rfl
@[simp] theorem Dsp.setBusy_transferBusy (d : Dsp) : (d.setBusy).transferBusy = true := rfl
@[simp] theorem Dsp.setBusy_framesRendered (d : Dsp) : (d.setBusy).framesRendered = d.framesRendered := rfl
@[simp] theorem Dsp.setBusy_framesTransferred (d : Dsp) : (d.setBusy).framesTransferred = d.framesTransferred := rfl

/-! ### `Dsp.clearBusy` -/

@[simp] theorem Dsp.clearBusy_render (d : Dsp) : (d.clearBusy).render = d.render := rfl
@[simp] theorem Dsp.clearBusy_ready (d : Dsp) : (d.clearBusy).ready = d.ready := rfl
@[simp] theorem Dsp.clearBusy_transfer (d : Dsp) : (d.clearBusy).transfer = d.transfer := rfl
@[simp] theorem Dsp.clearBusy_transferBusy (d : Dsp) : (d.clearBusy).transferBusy = false := rfl
@[simp] theorem Dsp.clearBusy_framesRendered (d : Dsp) : (d.clearBusy).framesRendered = d.framesRendered := rfl
@[simp] theorem Dsp.clearBusy_framesTransferred (d : Dsp) : (d.clearBusy).framesTransferred = d.framesTransferred := rfl

/-! ### `Dsp.swapRenderReady` -/

@[simp] theorem Dsp.swapRenderReady_render (d : Dsp) : (d.swapRenderReady).render = d.ready := rfl
@[simp] theorem Dsp.swapRenderReady_ready (d : Dsp) : (d.swapRenderReady).ready = d.render := rfl
@[simp] theorem Dsp.swapRenderReady_transfer (d : Dsp) : (d.swapRenderReady).transfer = d.transfer := rfl
@[simp] theorem Dsp.swapRenderReady_transferBusy (d : Dsp) : (d.swapRenderReady).transferBusy = d.transferBusy := rfl
@[simp] theorem Dsp.swapRenderReady_framesRendered (d : Dsp) : (d.swapRenderReady).framesRendered = d.framesRendered := rfl
@[simp] theorem Dsp.swapRenderReady_framesTransferred (d : Dsp) : (d.swapRenderReady).framesTransferred = d.framesTransferred := rfl

/-! ### `Dsp.swapReadyTransfer` -/

@[simp] theorem Dsp.swapReadyTransfer_render (d : Dsp) : (d.swapReadyTransfer).render = d.render := rfl
@[simp] theorem Dsp.swapReadyTransfer_ready (d : Dsp) : (d.swapReadyTransfer).ready = d.transfer := rfl
@[simp] theorem Dsp.swapReadyTransfer_transfer (d : Dsp) : (d.swapReadyTransfer).transfer = d.ready := rfl
@[simp] theorem Dsp.swapReadyTransfer_transferBusy (d : Dsp) : (d.swapReadyTransfer).transferBusy = d.transferBusy := rfl
@[simp] theorem Dsp.swapReadyTransfer_framesRendered (d : Dsp) : (d.swapReadyTransfer).framesRendered = d.framesRendered := rfl
@[simp] theorem Dsp.swapReadyTransfer_framesTransferred (d : Dsp) : (d.swapReadyTransfer).framesTransferred = d.framesTransferred := rfl

/-! ### `Dsp.initialised` -/

@[simp] theorem Dsp.initialised_render (d : Dsp) : (d.initialised).render = Config.initRender := rfl
@[simp] theorem Dsp.initialised_ready (d : Dsp) : (d.initialised).ready = Config.initReady := rfl
@[simp] theorem Dsp.initialised_transfer (d : Dsp) : (d.initialised).transfer = Config.initTransfer := rfl
@[simp] theorem Dsp.initialised_transferBusy (d : Dsp) : (d.initialised).transferBusy = d.transferBusy := rfl
@[simp] theorem Dsp.initialised_framesRendered (d : Dsp) : (d.initialised).framesRendered = 0 := rfl
@[simp] theorem Dsp.initialised_framesTransferred (d : Dsp) : (d.initialised).framesTransferred = 0 := rfl

/-! ### `Syn.recordDrift` -/

@[simp] theorem Syn.recordDrift_state (y : Syn) : (y.recordDrift).state = y.state := rfl
@[simp] theorem Syn.recordDrift_sampleRate (y : Syn) : (y.recordDrift).sampleRate = y.sampleRate := rfl
@[simp] theorem Syn.recordDrift_videoFps (y : Syn) : (y.recordDrift).videoFps = y.videoFps := rfl
@[simp] theorem Syn.recordDrift_samplesPerFrame (y : Syn) : (y.recordDrift).samplesPerFrame = y.samplesPerFrame := rfl
@[simp] theorem Syn.recordDrift_maxDriftFrames (y : Syn) : (y.recordDrift).maxDriftFrames = y.maxDriftFrames := rfl
@[simp] theorem Syn.recordDrift_audioSamplesPlayed (y : Syn) : (y.recordDrift).audioSamplesPlayed = y.audioSamplesPlayed := rfl
@[simp] theorem Syn.recordDrift_videoFramesRendered (y : Syn) : (y.recordDrift).videoFramesRendered = y.videoFramesRendered := rfl
@[simp] theorem Syn.recordDrift_framesSkipped (y : Syn) : (y.recordDrift).framesSkipped = y.framesSkipped := rfl
@[simp] theorem Syn.recordDrift_framesRepeated (y : Syn) : (y.recordDrift).framesRepeated = y.framesRepeated := rfl
@[simp] theorem Syn.recordDrift_maxDrift (y : Syn) : (y.recordDrift).maxDrift = maxSigned y.maxDrift (driftWord y) := rfl
@[simp] theorem Syn.recordDrift_minDrift (y : Syn) : (y.recordDrift).minDrift = minSigned y.minDrift (driftWord y) := rfl

end Sys2Proof.Machine
end

