-- ==== Sys2Proof/Laws/Ops.lean ====
section
/-! SUPPORT. One lemma for each shared operation that says once everything it can do. -/

namespace Sys2Proof.Machine

/-! ## The ends of an operation -/

theorem returnOk_eq_next {p : Port} {v : Word} {s t : State} :
    returnOk p v s = .next t ↔ t = s.answer p .ok v := by
  unfold returnOk
  exact ⟨fun h => by cases h; rfl, fun h => by rw [h]⟩

theorem raise_eq_next {p : Port} {st : Status} {s t : State} :
    raise p st s = .next t ↔ t = s.answer p st 0 := by
  unfold raise
  exact ⟨fun h => by cases h; rfl, fun h => by rw [h]⟩

/-! ## The tick -/

/-- A tick adds its count in RUNNING and does nothing in any other state. -/
theorem synTick_cases (cnt : BitVec 24) (s : State) :
    (s.syn.state = .running ∧
      synTick cnt s = s.setSyn { s.syn with audioSamplesPlayed := s.syn.audioSamplesPlayed + zext32 cnt }) ∨
      (s.syn.state ≠ .running ∧ synTick cnt s = s) := by
  unfold synTick
  by_cases h : s.syn.state = .running
  · exact .inl ⟨h, if_pos h⟩
  · exact .inr ⟨h, if_neg h⟩

/-- The synchroniser's registers after a tick. -/
def tickedSyn (cnt : BitVec 24) (y : Syn) : Syn :=
  if y.state = .running then { y with audioSamplesPlayed := y.audioSamplesPlayed + zext32 cnt } else y

theorem synTick_eq (cnt : BitVec 24) (s : State) : synTick cnt s = s.setSyn (tickedSyn cnt s.syn) := by
  unfold synTick tickedSyn
  split <;> rfl

@[simp] theorem tickedSyn_state (cnt : BitVec 24) (y : Syn) : (tickedSyn cnt y).state = y.state := by
  unfold tickedSyn; split <;> rfl

@[simp] theorem tickedSyn_config (cnt : BitVec 24) (y : Syn) :
    (tickedSyn cnt y).samplesPerFrame = y.samplesPerFrame ∧ (tickedSyn cnt y).maxDriftFrames = y.maxDriftFrames := by
  unfold tickedSyn; split <;> exact ⟨rfl, rfl⟩

@[simp] theorem tickedSyn_stats (cnt : BitVec 24) (y : Syn) :
    (tickedSyn cnt y).framesRepeated = y.framesRepeated ∧ (tickedSyn cnt y).maxDrift = y.maxDrift ∧
      (tickedSyn cnt y).minDrift = y.minDrift := by
  unfold tickedSyn; split <;> exact ⟨rfl, rfl, rfl⟩

/-! ## The audio event and the sequencer -/

/-- An audio event changes the AUD registers and, when a synchroniser is attached, ticks it. -/
theorem audEvent_eq (h : Half) (s : State) :
    audEvent h s = (s.setAud (s.aud.afterEvent h)).setSyn
      (if s.aud.syncAttached then tickedSyn tickOfHalf s.syn else s.syn) := by
  unfold audEvent
  split
  · rw [synTick_eq]; rfl
  · rfl

/-- What reaching a position does: the half-complete event at `N`, the transfer-complete event at 0, nothing else. -/
theorem raiseAtPosition_cases (s : State) :
    (s.aud.pos.toNat = Config.N ∧ raiseAtPosition s = audEvent .first s) ∨
      (s.aud.pos.toNat = 0 ∧ raiseAtPosition s = audEvent .second s) ∨
      (s.aud.pos.toNat ≠ Config.N ∧ s.aud.pos.toNat ≠ 0 ∧ raiseAtPosition s = s) := by
  unfold raiseAtPosition
  split
  · exact .inl ⟨‹_›, rfl⟩
  · split
    · exact .inr (.inl ⟨‹_›, rfl⟩)
    · exact .inr (.inr ⟨‹_›, ‹_›, rfl⟩)

/-- The state in which the sequencer has delivered its pair and moved on, before the event of the new position. -/
def movedOn (s : State) : State :=
  (s.emitDac (memRead s.smp (leftAddr s.aud.pos)) (memRead s.smp (rightAddr s.aud.pos))).setAud
    { s.aud with pos := nextPos s.aud.pos }

theorem sequencerStep_eq (s : State) : sequencerStep s = raiseAtPosition (movedOn s) := rfl

theorem nextPos_toNat (p : BitVec 12) : (nextPos p).toNat = (p.toNat + 1) % 4096 := by
  unfold nextPos
  rw [BitVec.toNat_ofNat]
  show (p.toNat + 1) % 4096 % 4096 = _
  exact Nat.mod_mod _ _

/-- Everything TRIG can do: nothing outside PLAYING; in PLAYING the pair is delivered and the position moves on, with
the half-complete event after sample `N - 1` and the transfer-complete event after sample `2N - 1`. -/
theorem execTrig_cases (s : State) :
    (s.aud.state ≠ .playing ∧ execTrig s = .next (s.answer .ev .ok 0)) ∨
      (s.aud.state = .playing ∧ s.aud.pos.toNat = 2047 ∧
        execTrig s = .next ((audEvent .first (movedOn s)).answer .ev .ok 0)) ∨
      (s.aud.state = .playing ∧ s.aud.pos.toNat = 4095 ∧
        execTrig s = .next ((audEvent .second (movedOn s)).answer .ev .ok 0)) ∨
      (s.aud.state = .playing ∧ s.aud.pos.toNat ≠ 2047 ∧ s.aud.pos.toNat ≠ 4095 ∧
        execTrig s = .next ((movedOn s).answer .ev .ok 0)) := by
  by_cases h : s.aud.state = .playing
  · have e : execTrig s = returnOk .ev 0 (raiseAtPosition (movedOn s)) := by
      simp [execTrig, h, sequencerStep_eq]
    have hp : (movedOn s).aud.pos.toNat = (s.aud.pos.toNat + 1) % 4096 := nextPos_toNat _
    have hlt := s.aud.pos.isLt
    rcases raiseAtPosition_cases (movedOn s) with ⟨a, b⟩ | ⟨a, b⟩ | ⟨a, a', b⟩
    · refine .inr (.inl ⟨h, ?_, by rw [e, b]; rfl⟩)
      simp only [Config.N] at a; omega
    · refine .inr (.inr (.inl ⟨h, ?_, by rw [e, b]; rfl⟩))
      omega
    · refine .inr (.inr (.inr ⟨h, ?_, ?_, by rw [e, b]; rfl⟩)) <;> simp only [Config.N] at a <;> omega
  · exact .inl ⟨h, by simp [execTrig, h, returnOk]⟩

/-! ## Sample accesses -/

/-- On this hardware every sample index is in range (R7). -/
theorem idxInRange_true (idx : BitVec 12) : idxInRange idx = true := by
  unfold idxInRange
  exact decide_eq_true idx.isLt

theorem storeSample_eq (idx : BitVec 12) (addr : Nat) (val : Sample) (s : State) :
    storeSample idx addr val s = .next ((s.setSmp (memWrite s.smp addr val)).answer .fg .ok 0) := by
  unfold storeSample
  rw [if_pos (idxInRange_true idx)]; rfl

theorem loadSample_eq (idx : BitVec 12) (addr : Nat) (s : State) :
    loadSample idx addr s = .next (s.answer .fg .ok (zext32 (memRead s.smp addr))) := by
  unfold loadSample
  rw [if_pos (idxInRange_true idx)]; rfl

/-- Every address of a sample index lies in the sample memory. -/
theorem leftAddr_lt (idx : BitVec 12) : leftAddr idx < Config.smpSize := by
  have h := idx.isLt
  show 0 + idx.toNat < 8192
  omega

theorem rightAddr_lt (idx : BitVec 12) : rightAddr idx < Config.smpSize := by
  have h := idx.isLt
  show 4096 + idx.toNat < 8192
  omega

/-! ## Framebuffer accesses -/

theorem fbAddrInRange_iff (addr : BitVec 12) : fbAddrInRange addr = true ↔ addr.toNat < 3072 := by
  unfold fbAddrInRange
  exact decide_eq_true_iff

/-- Every byte of the transfer slot lies in the framebuffer memory. -/
theorem xferAddr_lt (d : Dsp) (off : BitVec 10) : xferAddr d off < Config.fbMemSize := by
  have h := off.isLt
  have h' := d.transfer.isLt
  show 1024 * d.transfer.val + off.toNat < 3072
  omega

/-! ## Arithmetic of the synchroniser -/

theorem quotient_toNat {a b : Word} (h : b ≠ 0) : (quotient a b).toNat = a.toNat / b.toNat := by
  unfold quotient
  rw [if_neg h, BitVec.toNat_udiv]

theorem maxSigned_toInt (a b : Word) : (maxSigned a b).toInt = max a.toInt b.toInt := by
  unfold maxSigned
  split <;> omega

theorem minSigned_toInt (a b : Word) : (minSigned a b).toInt = min a.toInt b.toInt := by
  unfold minSigned
  split <;> omega

/-- The three answers of the decision rule. -/
theorem decisionOf_cases (drift band : Int) :
    (drift < -band ∧ decisionOf drift band = .skipFrame) ∨
      (¬drift < -band ∧ drift > band ∧ decisionOf drift band = .repeatFrame) ∨
      (¬drift < -band ∧ ¬drift > band ∧ decisionOf drift band = .renderFrame) := by
  unfold decisionOf
  split
  · exact .inl ⟨‹_›, rfl⟩
  · split
    · exact .inr (.inl ⟨‹_›, ‹_›, rfl⟩)
    · exact .inr (.inr ⟨‹_›, ‹_›, rfl⟩)

end Sys2Proof.Machine
end

