-- ==== Sys2Proof/Laws/PerInstr.lean ====
section
/-! SUPPORT. Statements made for every instruction, one lemma per constructor. -/

namespace Sys2Proof.Laws

/-- The shape of an instruction's encoding: a header whose opcode is the instruction's, and as many operand words as
R120 gives that opcode on the instruction's port. -/
def EncodeShape.Statement (i : Instr) : Prop :=
  ∃ h ops, encode i = h :: ops ∧ opcodeOf h = i.opcode ∧ ops.length + 1 = if i.opcode = 0x20 then 4 else 1

theorem EncodeShape.audInit (attach : Bool) : EncodeShape.Statement (.audInit attach) :=
  ⟨_, _, rfl, opcodeOf_formatI _ _, rfl⟩

theorem EncodeShape.audStart : EncodeShape.Statement .audStart :=
  ⟨_, _, rfl, opcodeOf_formatZ _, rfl⟩

theorem EncodeShape.audStop : EncodeShape.Statement .audStop :=
  ⟨_, _, rfl, opcodeOf_formatZ _, rfl⟩

theorem EncodeShape.audNeedsRefill : EncodeShape.Statement .audNeedsRefill :=
  ⟨_, _, rfl, opcodeOf_formatZ _, rfl⟩

theorem EncodeShape.audGetFillHalf : EncodeShape.Statement .audGetFillHalf :=
  ⟨_, _, rfl, opcodeOf_formatZ _, rfl⟩

theorem EncodeShape.audFilled : EncodeShape.Statement .audFilled :=
  ⟨_, _, rfl, opcodeOf_formatZ _, rfl⟩

theorem EncodeShape.audGetLbuf : EncodeShape.Statement .audGetLbuf :=
  ⟨_, _, rfl, opcodeOf_formatZ _, rfl⟩

theorem EncodeShape.audGetRbuf : EncodeShape.Statement .audGetRbuf :=
  ⟨_, _, rfl, opcodeOf_formatZ _, rfl⟩

theorem EncodeShape.smpWrl (idx : BitVec 12) (val : Sample) : EncodeShape.Statement (.smpWrl idx val) :=
  ⟨_, _, rfl, opcodeOf_formatS _ _ _, rfl⟩

theorem EncodeShape.smpWrr (idx : BitVec 12) (val : Sample) : EncodeShape.Statement (.smpWrr idx val) :=
  ⟨_, _, rfl, opcodeOf_formatS _ _ _, rfl⟩

theorem EncodeShape.smpRdl (idx : BitVec 12) : EncodeShape.Statement (.smpRdl idx) :=
  ⟨_, _, rfl, opcodeOf_formatS _ _ _, rfl⟩

theorem EncodeShape.smpRdr (idx : BitVec 12) : EncodeShape.Statement (.smpRdr idx) :=
  ⟨_, _, rfl, opcodeOf_formatS _ _ _, rfl⟩

theorem EncodeShape.dspInit : EncodeShape.Statement .dspInit :=
  ⟨_, _, rfl, opcodeOf_formatZ _, rfl⟩

theorem EncodeShape.dspGetRender : EncodeShape.Statement .dspGetRender :=
  ⟨_, _, rfl, opcodeOf_formatZ _, rfl⟩

theorem EncodeShape.dspSwap : EncodeShape.Statement .dspSwap :=
  ⟨_, _, rfl, opcodeOf_formatZ _, rfl⟩

theorem EncodeShape.dspHasFrame : EncodeShape.Statement .dspHasFrame :=
  ⟨_, _, rfl, opcodeOf_formatZ _, rfl⟩

theorem EncodeShape.dspStartXfer : EncodeShape.Statement .dspStartXfer :=
  ⟨_, _, rfl, opcodeOf_formatZ _, rfl⟩

theorem EncodeShape.dspGetXfer : EncodeShape.Statement .dspGetXfer :=
  ⟨_, _, rfl, opcodeOf_formatZ _, rfl⟩

theorem EncodeShape.fbWr (addr : BitVec 12) (byte : Byte) : EncodeShape.Statement (.fbWr addr byte) :=
  ⟨_, _, rfl, opcodeOf_formatA _ _ _, rfl⟩

theorem EncodeShape.fbRd (addr : BitVec 12) : EncodeShape.Statement (.fbRd addr) :=
  ⟨_, _, rfl, opcodeOf_formatA _ _ _, rfl⟩

theorem EncodeShape.synInit (rate fps maxDrift : Word) : EncodeShape.Statement (.synInit rate fps maxDrift) :=
  ⟨_, _, rfl, opcodeOf_formatZ _, rfl⟩

theorem EncodeShape.synStart : EncodeShape.Statement .synStart :=
  ⟨_, _, rfl, opcodeOf_formatZ _, rfl⟩

theorem EncodeShape.synStop : EncodeShape.Statement .synStop :=
  ⟨_, _, rfl, opcodeOf_formatZ _, rfl⟩

theorem EncodeShape.synDecide : EncodeShape.Statement .synDecide :=
  ⟨_, _, rfl, opcodeOf_formatZ _, rfl⟩

theorem EncodeShape.synRendered : EncodeShape.Statement .synRendered :=
  ⟨_, _, rfl, opcodeOf_formatZ _, rfl⟩

theorem EncodeShape.synSkipped : EncodeShape.Statement .synSkipped :=
  ⟨_, _, rfl, opcodeOf_formatZ _, rfl⟩

theorem EncodeShape.synAframe : EncodeShape.Statement .synAframe :=
  ⟨_, _, rfl, opcodeOf_formatZ _, rfl⟩

theorem EncodeShape.rdreg (reg : BitVec 8) : EncodeShape.Statement (.rdreg reg) :=
  ⟨_, _, rfl, opcodeOf_formatI _ _, rfl⟩

theorem EncodeShape.trig : EncodeShape.Statement .trig :=
  ⟨_, _, rfl, opcodeOf_formatZ _, rfl⟩

theorem EncodeShape.audHt : EncodeShape.Statement .audHt :=
  ⟨_, _, rfl, opcodeOf_formatZ _, rfl⟩

theorem EncodeShape.audTc : EncodeShape.Statement .audTc :=
  ⟨_, _, rfl, opcodeOf_formatZ _, rfl⟩

theorem EncodeShape.audErr : EncodeShape.Statement .audErr :=
  ⟨_, _, rfl, opcodeOf_formatZ _, rfl⟩

theorem EncodeShape.dspDone : EncodeShape.Statement .dspDone :=
  ⟨_, _, rfl, opcodeOf_formatZ _, rfl⟩

theorem EncodeShape.synTick (cnt : BitVec 24) : EncodeShape.Statement (.synTick cnt) :=
  ⟨_, _, rfl, opcodeOf_formatI _ _, rfl⟩

theorem EncodeShape.xferRd (off : BitVec 10) : EncodeShape.Statement (.xferRd off) :=
  ⟨_, _, rfl, opcodeOf_formatA _ _ _, rfl⟩

end Sys2Proof.Laws
end

