-- ==== Sys2Proof/Laws/Runs.lean ====
section
/-! SUPPORT. Lists of operations and runs of steps, taken apart one operation or one step at a time. -/

namespace Sys2Proof.Machine

@[simp] theorem execAll_nil (s : State) : execAll [] s = .next s := rfl

/-- The first operation of a list, then the rest from where it leads. -/
theorem execAll_cons {i : Instr} {is : List Instr} {s t : State} (h : exec i s = .next t) :
    execAll (i :: is) s = execAll is t := by
  simp only [execAll, h]

/-- A list of operations in two parts. -/
theorem execAll_append {is js : List Instr} {s t : State} (h : execAll is s = .next t) :
    execAll (is ++ js) s = execAll js t := by
  induction is generalizing s with
  | nil => cases h; rfl
  | cons i is ih =>
    rw [List.cons_append]
    cases he : exec i s with
    | next u =>
      rw [execAll_cons he] at h ⊢
      exact ih h
    | fault r => exact nomatch r
    | refused r => simp only [execAll, he] at h; cases h

theorem trigN_zero : trigN 0 = [] := rfl

theorem trigN_succ (n : Nat) : trigN (n + 1) = trigN n ++ [.trig] := by
  unfold trigN rept
  rw [List.replicate_succ', List.flatten_append]
  rfl

/-- One more step of a run that has not stopped, for any machine. -/
theorem run_succ_of (M : Host.Core) {n : Nat} {s t : M.State} (h : M.step s = .next t) :
    M.run (n + 1) s = M.run n t := by
  simp only [Host.Core.run, h]

/-- One more step of a run of this machine that has not stopped. -/
theorem run_succ {n : Nat} {s t : State} (h : step s = .next t) :
    Host.Core.run Sys2Proof.core (n + 1) s = Host.Core.run Sys2Proof.core n t :=
  run_succ_of Sys2Proof.core h

end Sys2Proof.Machine
end

