-- ==== Sys2Proof/Tests/Slice0.lean ====
section
/-! SUPPORT. Tests of the model on small states. Every expected value is one that spec/95_test_vectors.md or
spec/30_encoding.md writes out; the vector is named in the docstring. The witnesses at the end show, for each statement
that has hypotheses, a state and operands that meet them. -/

namespace Sys2Proof.Tests

open Sys2Proof Sys2Proof.Machine

/-! ## Helpers -/

/-- A part of the state an answer leads to. -/
def after {α : Type} (f : State → α) : Answer → Option α
  | .next t => some (f t)
  | .fault _ => none
  | .refused _ => none

/-- Status and value of the last response. -/
def reply (t : State) : Option (Status × Word) := t.responses.getLast?.map fun r => (r.status, r.value)

/-- The response to one operation. -/
def replyTo (i : Instr) (s : State) : Option (Option (Status × Word)) := after reply (exec i s)

/-- The AUD unit in a lifecycle state at a position, everything else as after reset. -/
def audIn (st : AudState) (pos : BitVec 12) : State :=
  { State.reset with aud := { Aud.atReset with state := st, pos := pos } }

/-- A display with a transfer of slot 1 in flight. -/
def sending : State :=
  { State.reset with dsp := { Dsp.atReset with transferBusy := true, framesRendered := 1 }, fb := [(1024, 0xBB), (2047, 0xCC)] }

/-- A display with one frame queued and none in flight. -/
def queued : State := { State.reset with dsp := { Dsp.atReset with framesRendered := 1 } }

/-- The SYN unit in a lifecycle state with a divisor, a band, a sample count and a frame count. -/
def synIn (st : SynState) (spf band asp vfr : Word) : State :=
  { State.reset with syn := { Syn.atReset with
      state := st, samplesPerFrame := spf, maxDriftFrames := band, audioSamplesPlayed := asp, videoFramesRendered := vfr } }

/-- The frame counter, the drift statistics and the answer of a SYN_DECIDE. -/
def decided (s : State) : Option (Word × Word × Option (Status × Word)) :=
  after (fun t => (t.syn.maxDrift, t.syn.minDrift, reply t)) (exec .synDecide s)

/-! ## Well-formedness: each check refuses an ill-formed term (R7, with a half size of 1024) -/

theorem test_wf_smpWrl : Instr.wellFormedFor 1024 (.smpWrl 2048 0) = false := by decide
theorem test_wf_smpWrr : Instr.wellFormedFor 1024 (.smpWrr 2048 0) = false := by decide
theorem test_wf_smpRdl : Instr.wellFormedFor 1024 (.smpRdl 2048) = false := by decide
theorem test_wf_smpRdr : Instr.wellFormedFor 1024 (.smpRdr 2048) = false := by decide
theorem test_wf_last_index : Instr.wellFormedFor 1024 (.smpWrl 2047 0) = true := by decide
theorem test_wf_hardware : Instr.wellFormed (.smpRdr 4095) = true := by decide

/-! ## Decoding: every constructor's word, written out from R111 to R118 -/

/-- AUD unit, Formats Z and I: E1, E2 and the table. -/
theorem test_decode_audio :
    decode .fg [0x01000001] = .ok (.audInit true) ∧ decode .fg [0x01000000] = .ok (.audInit false) ∧
    decode .fg [0x02000000] = .ok .audStart ∧ decode .fg [0x03000000] = .ok .audStop ∧
    decode .fg [0x04000000] = .ok .audNeedsRefill ∧ decode .fg [0x05000000] = .ok .audGetFillHalf ∧
    decode .fg [0x06000000] = .ok .audFilled ∧ decode .fg [0x07000000] = .ok .audGetLbuf ∧
    decode .fg [0x08000000] = .ok .audGetRbuf := by decide

/-- AUD unit, Format S: E3, E4, E5, E6. -/
theorem test_decode_samples :
    decode .fg [0x09005123] = .ok (.smpWrl 5 0x123) ∧ decode .fg [0x0AFFFFFF] = .ok (.smpWrr 4095 0xFFF) ∧
    decode .fg [0x0B005000] = .ok (.smpRdl 5) ∧ decode .fg [0x0C800000] = .ok (.smpRdr 2048) := by decide

/-- DSP unit: E7, E8, E15 and the table; E26 with an address past the end. -/
theorem test_decode_display :
    decode .fg [0x10000000] = .ok .dspInit ∧ decode .fg [0x11000000] = .ok .dspGetRender ∧
    decode .fg [0x12000000] = .ok .dspSwap ∧ decode .fg [0x13000000] = .ok .dspHasFrame ∧
    decode .fg [0x14000000] = .ok .dspStartXfer ∧ decode .fg [0x15000000] = .ok .dspGetXfer ∧
    decode .fg [0x160405FF] = .ok (.fbWr 0x405 0xFF) ∧ decode .fg [0x160C0001] = .ok (.fbWr 0xC00 1) ∧
    decode .fg [0x170BFF00] = .ok (.fbRd 3071) := by decide

/-- SYN unit and system: E9, E10, E11, E29 and the table. -/
theorem test_decode_sync :
    decode .fg [0x20000000, 0x00007D00, 0x0000001E, 0x00000000] = .ok (.synInit 32000 30 0) ∧
    decode .fg [0x21000000] = .ok .synStart ∧ decode .fg [0x22000000] = .ok .synStop ∧
    decode .fg [0x23000000] = .ok .synDecide ∧ decode .fg [0x24000000] = .ok .synRendered ∧
    decode .fg [0x25000000] = .ok .synSkipped ∧ decode .fg [0x26000000] = .ok .synAframe ∧
    decode .fg [0x30000004] = .ok (.rdreg 0x04) ∧ decode .fg [0x3000002A] = .ok (.rdreg 0x2A) ∧
    decode .fg [0x300000FF] = .ok (.rdreg 0xFF) := by decide

/-- Port EV: E12, E13, E14, E16, E32 and the table. -/
theorem test_decode_events :
    decode .ev [0x80000000] = .ok .trig ∧ decode .ev [0x81000000] = .ok .audHt ∧
    decode .ev [0x82000000] = .ok .audTc ∧ decode .ev [0x83000000] = .ok .audErr ∧
    decode .ev [0x84000000] = .ok .dspDone ∧ decode .ev [0x85000800] = .ok (.synTick 2048) ∧
    decode .ev [0x85FFFFFF] = .ok (.synTick 16777215) ∧ decode .ev [0x86000700] = .ok (.xferRd 7) ∧
    decode .ev [0x8603FF00] = .ok (.xferRd 1023) := by decide

/-- One word of each format written out bit by bit: opcode, then the fields from the left (R111 to R114). -/
theorem test_decode_bits :
    decode .fg [0b00000010_000000000000000000000000] = .ok .audStart ∧
    decode .fg [0b00110000_0000000000000000_00101010] = .ok (.rdreg 0x2A) ∧
    decode .fg [0b00001001_000000000101_000100100011] = .ok (.smpWrl 5 0x123) ∧
    decode .fg [0b00010110_0000_010000000101_11111111] = .ok (.fbWr 0x405 0xFF) ∧
    decode .ev [0b10000110_000000_1111111111_00000000] = .ok (.xferRd 1023) := by decide

/-- Illegal commands: E20 to E25, E27, E28, E30, E31, E33 to E36. -/
theorem test_decode_illegal :
    decode .fg [0x00000000] = .error .undefinedOpcode ∧ decode .fg [0x02000001] = .error .nonzeroBits ∧
    decode .fg [0x80000000] = .error .otherPort ∧ decode .ev [0x02000000] = .error .otherPort ∧
    decode .fg [0x01000002] = .error .nonzeroBits ∧ decode .fg [0x0B005001] = .error .nonzeroBits ∧
    decode .fg [0x16100000] = .error .nonzeroBits ∧ decode .fg [0x17040501] = .error .nonzeroBits ∧
    decode .fg [0x30000100] = .error .nonzeroBits ∧ decode .ev [0x86040000] = .error .nonzeroBits ∧
    decode .fg [0x20000001, 1, 2, 3] = .error .nonzeroBits ∧ decode .fg [0x0D000000] = .error .undefinedOpcode ∧
    decode .ev [0x87000000] = .error .undefinedOpcode ∧ decode .fg [0xFFFFFFFF] = .error .otherPort ∧
    decode .ev [0xFFFFFFFF] = .error .undefinedOpcode := by decide

/-- The encoder writes the words of E3, E7, E9 and E14. -/
theorem test_encode :
    encode (.smpWrl 5 0x123) = [0x09005123] ∧ encode (.fbWr 0x405 0xFF) = [0x160405FF] ∧
    encode (.synInit 32000 30 0) = [0x20000000, 0x00007D00, 0x0000001E, 0x00000000] ∧
    encode (.xferRd 1023) = [0x8603FF00] := by decide

/-- The bytes of E9, least significant byte first (R88). -/
theorem test_decode_bytes :
    decodeBytes .fg [0, 0, 0, 0x20, 0, 0x7D, 0, 0, 0x1E, 0, 0, 0, 0, 0, 0, 0] = .ok (.synInit 32000 30 0) := by decide

/-- A table row's bits: one word, and a header alone whose operand words are then 0. -/
theorem test_table_word :
    decodeTableWord 32 0x09005123 = some (.smpWrl 5 0x123) ∧ decodeTableWord 32 0x20000000 = some (.synInit 0 0 0) ∧
    decodeTableWord 128 0x000000000000001E00007D0020000000 = some (.synInit 32000 30 0) ∧
    decodeTableWord 32 0x87000000 = none := by decide

/-! ## AUD unit -/

/-- A1. -/
theorem test_audInit : after (fun t => (t.aud.state, t.aud.syncAttached, reply t)) (exec (.audInit true) State.reset) =
    some (.ready, true, some (.ok, 0)) := by decide
/-- A5. -/
theorem test_audInit_ready : replyTo (.audInit true) (audIn .ready 0) = some (some (.badState, 0)) := by decide
/-- A7. -/
theorem test_audStart : after (fun t => (t.aud.state, t.aud.pos)) (exec .audStart (audIn .ready 100)) =
    some (.playing, 0) := by decide
/-- A3. -/
theorem test_audStart_reset : replyTo .audStart State.reset = some (some (.badState, 0)) := by decide
/-- A7. -/
theorem test_audStop : after (fun t => (t.aud.state, t.aud.pos)) (exec .audStop (audIn .playing 100)) =
    some (.ready, 100) := by decide
/-- A3. -/
theorem test_audStop_reset : replyTo .audStop State.reset = some (some (.badState, 0)) := by decide
/-- P1 step 4. -/
theorem test_audNeedsRefill : replyTo .audNeedsRefill { State.reset with aud := { Aud.atReset with needsRefill := true } } =
    some (some (.ok, 1)) := by decide
/-- P2 step 10. -/
theorem test_audGetFillHalf : replyTo .audGetFillHalf { State.reset with aud := { Aud.atReset with fillHalf := .second } } =
    some (some (.ok, 1)) := by decide
/-- A12. -/
theorem test_audFilled : after (fun t => (t.aud.needsRefill, t.aud.refillCount))
    (exec .audFilled { State.reset with aud := { Aud.atReset with needsRefill := true, refillCount := 4 } }) =
    some (false, 5) := by decide
/-- A17. -/
theorem test_audFilled_wraps : after (fun t => t.aud.refillCount)
    (exec .audFilled { State.reset with aud := { Aud.atReset with refillCount := 0xFFFFFFFF } }) = some 0 := by decide
/-- R156. -/
theorem test_audGetLbuf : replyTo .audGetLbuf State.reset = some (some (.ok, 0)) := by decide
/-- R157. -/
theorem test_audGetRbuf : replyTo .audGetRbuf State.reset = some (some (.ok, 4096)) := by decide
/-- A4: the channels are separate. -/
theorem test_smpWrl : after (fun t => (t.left 5, t.right 5)) (exec (.smpWrl 5 0x123) State.reset) =
    some (0x123, 0) := by decide
/-- A write of 0 leaves no entry. -/
theorem test_smpWrl_zero : after (fun t => t.smp) (exec (.smpWrl 5 0) { State.reset with smp := [(5, 1), (6, 2)] }) =
    some [(6, 2)] := by decide
/-- A4, the other channel, at the last index. -/
theorem test_smpWrr : after (fun t => t.smp) (exec (.smpWrr 4095 0xFFF) { State.reset with smp := [(4095, 1)] }) =
    some [(4095, 1), (8191, 0xFFF)] := by decide
/-- A4. -/
theorem test_smpRdl : replyTo (.smpRdl 5) { State.reset with smp := [(5, 0x123), (4101, 0x456)] } =
    some (some (.ok, 0x123)) := by decide
/-- A2. -/
theorem test_smpRdl_reset : replyTo (.smpRdl 0) State.reset = some (some (.ok, 0)) := by decide
/-- A4. -/
theorem test_smpRdr : replyTo (.smpRdr 5) { State.reset with smp := [(5, 0x123), (4101, 0x456)] } =
    some (some (.ok, 0x456)) := by decide
/-- A9. -/
theorem test_trig_half : after (fun t => (t.aud.pos, t.aud.fillHalf, t.aud.needsRefill, t.aud.samplesPlayed, t.dac))
    (exec .trig { audIn .playing 2047 with smp := [(2047, 0x111), (6143, 0x222)] }) =
    some (2048, .first, true, 2048, [⟨0x111, 0x222⟩]) := by decide
/-- A10. -/
theorem test_trig_end : after (fun t => (t.aud.pos, t.aud.fillHalf, t.aud.needsRefill)) (exec .trig (audIn .playing 4095)) =
    some (0, .second, true) := by decide
/-- A14. -/
theorem test_audHt_reset : after (fun t => (t.aud.state, t.aud.needsRefill, t.aud.samplesPlayed, t.aud.pos))
    (exec .audHt State.reset) = some (.reset, true, 2048, 0) := by decide
/-- P1 step 5: the second event counts an underrun. -/
theorem test_audHt_underrun : after (fun t => t.aud.underrunCount)
    (exec .audHt { State.reset with aud := { Aud.atReset with needsRefill := true } }) = some 1 := by decide
/-- A16. -/
theorem test_audTc_wraps : after (fun t => (t.aud.samplesPlayed, t.aud.underrunCount, t.syn.audioSamplesPlayed, t.aud.fillHalf))
    (exec .audTc { synIn .running 1066 2 0xFFFFF800 0 with
      aud := { Aud.atReset with samplesPlayed := 0xFFFFF800, underrunCount := 0xFFFFFFFF, needsRefill := true, syncAttached := true } }) =
    some (0, 0, 0, .second) := by decide
/-- A19: a tick forwarded to a synchroniser that is not RUNNING is dropped. -/
theorem test_audTc_dropped : after (fun t => t.syn.audioSamplesPlayed)
    (exec .audTc { synIn .ready 1066 2 0 0 with aud := { Aud.atReset with syncAttached := true } }) = some 0 := by decide
/-- A18. -/
theorem test_audErr : after (fun t => t.aud.state) (exec .audErr (audIn .playing 0)) = some .error := by decide
/-- A3. -/
theorem test_audErr_reset : replyTo .audErr State.reset = some (some (.badState, 0)) := by decide

/-! ## DSP unit -/

/-- R190. -/
theorem test_dspInit : after (fun t => (t.dsp.render, t.dsp.ready, t.dsp.transfer, t.dsp.framesRendered))
    (exec .dspInit { State.reset with dsp := { Dsp.atReset with render := 1, ready := 0, transfer := 2, framesRendered := 7 } }) =
    some (0, 2, 1, 0) := by decide
/-- R190: rejected while a transfer is in flight. -/
theorem test_dspInit_busy : replyTo .dspInit sending = some (some (.badState, 0)) := by decide
/-- P3 step 4. -/
theorem test_dspGetRender : replyTo .dspGetRender { State.reset with dsp := { Dsp.atReset with render := 2, ready := 0 } } =
    some (some (.ok, 2048)) := by decide
/-- P3 step 3. -/
theorem test_dspSwap : after (fun t => (t.dsp.render, t.dsp.ready, t.dsp.transfer, t.dsp.framesRendered))
    (exec .dspSwap State.reset) = some (2, 0, 1, 1) := by decide
/-- P3 step 8. -/
theorem test_dspHasFrame : replyTo .dspHasFrame queued = some (some (.ok, 1)) := by decide
/-- P3 step 9, from one queued frame. -/
theorem test_dspStartXfer : after (fun t => (t.dsp, reply t)) (exec .dspStartXfer queued) =
    some (⟨0, 1, 2, true, 1, 0⟩, some (.ok, 1)) := by decide
/-- P3 step 15. -/
theorem test_dspStartXfer_busy : replyTo .dspStartXfer sending = some (some (.ok, 0)) := by decide
/-- P3 step 10, with the initial transfer slot. -/
theorem test_dspGetXfer : replyTo .dspGetXfer State.reset = some (some (.ok, 1024)) := by decide
/-- R196: the last element. -/
theorem test_fbWr : after (fun t => t.fb) (exec (.fbWr 3071 0xAA) State.reset) = some [(3071, 0xAA)] := by decide
/-- E26. -/
theorem test_fbWr_past_end : replyTo (.fbWr 0xC00 1) State.reset = some (some (.invalidParam, 0)) := by decide
/-- R197. -/
theorem test_fbRd : replyTo (.fbRd 2047) sending = some (some (.ok, 0xCC)) := by decide
/-- R197: the first address past the end. -/
theorem test_fbRd_past_end : replyTo (.fbRd 3072) State.reset = some (some (.invalidParam, 0)) := by decide
/-- P3 step 11, with slot 1 in flight. -/
theorem test_xferRd : replyTo (.xferRd 1023) sending = some (some (.ok, 0xCC)) := by decide
/-- Z4. -/
theorem test_xferRd_idle : replyTo (.xferRd 5) State.reset = some (some (.badState, 0)) := by decide
/-- P3 step 16. -/
theorem test_dspDone : after (fun t => (t.dsp.transferBusy, t.dsp.framesTransferred)) (exec .dspDone sending) =
    some (false, 1) := by decide
/-- P3 step 18. -/
theorem test_dspDone_idle : replyTo .dspDone State.reset = some (some (.badState, 0)) := by decide

/-! ## SYN unit -/

/-- S2. -/
theorem test_synInit : after (fun t => (t.syn.state, t.syn.samplesPerFrame, t.syn.maxDriftFrames))
    (exec (.synInit 32000 30 0) State.reset) = some (.ready, 1066, 2) := by decide
/-- S3. -/
theorem test_synInit_quotient_zero : replyTo (.synInit 20 30 2) State.reset = some (some (.invalidParam, 0)) := by decide
/-- S4. -/
theorem test_synStart : after (fun t => t.syn.state) (exec .synStart (synIn .ready 1066 2 0 0)) = some .running := by decide
/-- S4: STOPPED is terminal. -/
theorem test_synStart_stopped : replyTo .synStart (synIn .stopped 1066 2 0 0) = some (some (.badState, 0)) := by decide
/-- S4. -/
theorem test_synStop : after (fun t => t.syn.state) (exec .synStop (synIn .running 1066 2 0 0)) = some .stopped := by decide
/-- S5. -/
theorem test_synTick : after (fun t => t.syn.audioSamplesPlayed) (exec (.synTick 2048) (synIn .running 1066 2 6144 0)) =
    some 8192 := by decide
/-- S1. -/
theorem test_synTick_reset : after (fun t => t.syn.audioSamplesPlayed) (exec (.synTick 2048) State.reset) = some 0 := by decide
/-- S7: below the band; S6: at its edge; S19: the wrapped difference; S1: before a start. -/
theorem test_synDecide_lower :
    decided (synIn .running 1066 2 8192 4) = some (0, 0xFFFFFFFD, some (.ok, 1)) ∧
    decided (synIn .running 1066 2 8192 5) = some (0, 0xFFFFFFFE, some (.ok, 0)) ∧
    decided (synIn .running 1 2 0xFFFFFFFF 0) = some (1, 0, some (.ok, 0)) ∧
    decided State.reset = some (0, 0, some (.ok, 3)) :=
  ⟨by decide, by decide, by decide, by decide⟩
/-- S9 above the band; S20, S21 and S23 at the ends of the 32-bit difference. -/
theorem test_synDecide_upper :
    decided (synIn .running 1066 2 8192 10) = some (3, 0, some (.ok, 2)) ∧
    decided (synIn .running 1 2 0 0x80000000) = some (0, 0x80000000, some (.ok, 1)) ∧
    decided (synIn .running 1 0x80000000 0 0x80000000) = some (0, 0x80000000, some (.ok, 0)) ∧
    decided (synIn .running 1 2 0 0x7FFFFFFF) = some (0x7FFFFFFF, 0, some (.ok, 2)) :=
  ⟨by decide, by decide, by decide, by decide⟩
/-- S26. -/
theorem test_synRendered : after (fun t => (t.syn.videoFramesRendered, t.syn.framesSkipped))
    (exec .synRendered (synIn .running 1066 2 0 5)) = some (6, 0) := by decide
/-- S27. -/
theorem test_synSkipped : after (fun t => (t.syn.videoFramesRendered, t.syn.framesSkipped))
    (exec .synSkipped (synIn .running 1066 2 0 4)) = some (5, 1) := by decide
/-- S30. -/
theorem test_synAframe : replyTo .synAframe (synIn .stopped 1066 2 8192 0) = some (some (.ok, 7)) := by decide
/-- S1. -/
theorem test_synAframe_reset : replyTo .synAframe State.reset = some (some (.badState, 0)) := by decide

/-! ## System -/

/-- Y3, Y4 and S31. -/
theorem test_rdreg :
    replyTo (.rdreg 0x01) { State.reset with aud := { Aud.atReset with needsRefill := true, fillHalf := .second, syncAttached := true } } =
      some (some (.ok, 7)) ∧
    replyTo (.rdreg 0x10) { State.reset with dsp := { Dsp.atReset with render := 1, ready := 0, transfer := 2 } } =
      some (some (.ok, 0x21)) ∧
    replyTo (.rdreg 0x2A) { State.reset with syn := { Syn.atReset with minDrift := 0xFFFFFFFD } } =
      some (some (.ok, 0xFFFFFFFD)) := by decide
/-- Y2. -/
theorem test_rdreg_unlisted :
    ∀ r ∈ [(0x05 : BitVec 8), 0x0F, 0x14, 0x1F, 0x2B, 0xFF], replyTo (.rdreg r) State.reset = some (some (.invalidParam, 0)) := by
  decide

/-! ## Steps -/

/-- The word presented is the word the next step runs: E3, and E13 on port EV. -/
theorem test_step_runs :
    after (fun t => t.smp) (step (State.reset.withFetchWord 32 0x09005123)) = some [(5, 0x123)] ∧
    after reply (step (State.reset.withFetchWord 32 0x86000700)) = some (some (.badState, 0)) := by decide

/-- An illegal command is rejected: E34, and E33 with its operand words taken. -/
theorem test_step_illegal :
    after reply (step (State.reset.withFetchWord 32 0x0D000000)) = some (some (.illegalOp, 0)) ∧
    after (fun t => (t.fgIn, reply t)) (step (State.started [0x20000001, 1, 2, 3, 0x02000000] [] [.commands 0 2])) =
      some ([0x02000000], some (.illegalOp, 0)) := by decide

/-- R276: the trigger comes before the DSP_DONE presented before it, and both before the foreground. -/
theorem test_step_order :
    after (fun t => (t.evIn, t.fgIn, t.due)) (step (State.started [0x02000000] [0x84000000, 0x80000000] [.commands 2 1])) =
      some ([0x84000000], [0x02000000], [.commands 1 1]) := by decide

/-- R94 (b): a SYN_TICK and an illegal header keep their place before the trigger, and a display event that waits for
that trigger does not hold them up (R276). -/
theorem test_step_port_order :
    after (fun t => t.evIn) (step (State.started [] [0x85000001, 0x80000000] [.commands 2 0])) = some [0x80000000] ∧
    after (fun t => t.evIn) (step (State.started [] [0x81000001, 0x80000000] [.commands 2 0])) = some [0x80000000] ∧
    after (fun t => t.evIn) (step (State.started [] [0x84000000, 0x85000001, 0x80000000] [.commands 3 0])) =
      some [0x84000000, 0x80000000] := by decide

/-- R300: a reset while a transfer is in flight. -/
theorem test_step_reset :
    after (fun t => (t.dsp, t.fb)) (step { sending with due := [.reset] }) = some (Dsp.atReset, []) := by decide

/-! ## Witnesses: a state and operands that meet the hypotheses of each statement that has some -/

/-- The state after reset meets every invariant. -/
theorem reset_inv : State.reset.Inv := ⟨by decide, by decide, by decide, by decide⟩

theorem witness_EncodedInstructionDecodesBack :
    (Instr.smpWrl 4095 0xFFF).wellFormed = true ∧ (Instr.fbWr 4095 0xFF).wellFormed = true ∧
    (Instr.synTick 0xFFFFFF).wellFormed = true := by decide

theorem witness_DecodedWordsAreTheEncoding :
    decode .fg [0x0AFFFFFF] = .ok (.smpWrr 4095 0xFFF) ∧ decode .fg [0x20000000, 1, 2, 3] = .ok (.synInit 1 2 3) ∧
    decode .ev [0x8603FF00] = .ok (.xferRd 1023) := by decide

theorem witness_DecoderFollowsTheOpcodeTable :
    ([1, 2, 3] : List Word).length + 1 = commandLength .fg 0x20000000 ∧
    decode .fg [0x20000000, 1, 2, 3] = .ok (.synInit 1 2 3) ∧
    (⟨"SYN_INIT", .fg, 0x20000000, 0xFFFFFFFF⟩ : Row) ∈ opcodeTable ∧
    (⟨"SYN_INIT", .fg, 0x20000000, 0xFFFFFFFF⟩ : Row).selects .fg 0x20000000 = true ∧
    (⟨"XFER_RD", .ev, 0x86000000, 0xFFFC00FF⟩ : Row) ∈ opcodeTable ∧
    (⟨"XFER_RD", .ev, 0x86000000, 0xFFFC00FF⟩ : Row).selects .ev 0x8603FF00 = true := by decide

theorem witness_IllegalCommandIsRejected :
    fetch (State.reset.present .fg [0x0D000000]) = .command .fg [0x0D000000] State.reset ∧
    (∀ r ∈ opcodeTable, r.selects .fg 0x0D000000 = false) ∧
    fetch (State.reset.present .fg [0x02000000]) = .command .fg [0x02000000] State.reset ∧
    (⟨"AUD_START", .fg, 0x02000000, 0xFFFFFFFF⟩ : Row) ∈ opcodeTable ∧
    (⟨"AUD_START", .fg, 0x02000000, 0xFFFFFFFF⟩ : Row).selects .fg 0x02000000 = true :=
  ⟨rfl, by decide, rfl, by decide, by decide⟩

theorem witness_StepRunsTheDecodedInstruction :
    fetch (State.reset.present .ev [0x80000000]) = .command .ev [0x80000000] State.reset ∧
    decode .ev [0x80000000] = .ok .trig :=
  ⟨rfl, by decide⟩

theorem witness_CommandLengthIsDecidedByTheOpcode :
    opcodeOf 0x20000001 = 0x20 ∧ (0x20000001 : Word) ≠ 0x20000000 ∧ opcodeOf 0x21000000 ≠ 0x20 := by decide

/-- An instant with both ports due, first with an audio event behind a display event, then with none, then with FG
alone. -/
theorem witness_EventsComeBeforeTheForeground :
    (State.started [0x02000000] [0x84000000, 0x80000000] [.commands 2 1]).due = .commands 2 1 :: [] ∧
    (State.started [0x02000000] [0x84000000, 0x80000000] [.commands 2 1]).evIn ≠ [] ∧
    (State.started [] [0x84000000, 0x85000001] [.commands 2 0]).evIn = 0x84000000 :: [0x85000001] ∧
    (∀ w ∈ (State.started [] [0x84000000, 0x85000001] [.commands 2 0]).evIn.take 2, isAudioEvent w = false) ∧
    (State.started [0x02000000] [] [.commands 0 1]).due = .commands 0 1 :: [] ∧
    takeCommand .fg (State.started [0x02000000] [] [.commands 0 1]).fgIn = some ([0x02000000], []) :=
  ⟨rfl, by decide, rfl, List.forall_mem_cons.2 ⟨by decide, List.forall_mem_cons.2 ⟨by decide, by simp⟩⟩, rfl, by decide⟩

/-- The audio event is the last word of the instant. -/
theorem witness_AudioEventsComeBeforeDisplayEvents :
    (State.started [] [0x84000000, 0x83000000] [.commands 2 0]).due = .commands 2 0 :: [] ∧
    ∃ w ∈ (State.started [] [0x84000000, 0x83000000] [.commands 2 0]).evIn.take 2, isAudioEvent w = true :=
  ⟨rfl, 0x83000000, List.mem_cons_of_mem _ List.mem_cons_self, by decide⟩

theorem witness_AudioAndDisplayEventsCommute :
    Instr.audErr ∈ [Instr.trig, .audHt, .audTc, .audErr] ∧ Instr.xferRd 1023 ∈ [Instr.dspDone, .xferRd 1023] := by decide

theorem witness_QuietTurnsChangeNoRegister :
    State.reset.due = [] ∧ (State.started [] [] [.commands 0 1]).due = .commands 0 1 :: [] ∧
    (State.started [] [] [.commands 0 1]).fgIn = [] ∧
    (State.started [0x20000000, 1, 2] [] [.commands 0 1]).due = .commands 0 1 :: [] ∧
    (State.started [0x20000000, 1, 2] [] [.commands 0 1]).fgIn = 0x20000000 :: [1, 2] ∧
    opcodeOf 0x20000000 = 0x20 ∧ ([1, 2] : List Word).length < 3 := by decide

theorem witness_ResetEventRestoresTheResetState : ({ sending with due := [.reset] } : State).due = .reset :: [] := rfl

theorem witness_EveryStepKeepsTheInvariants :
    (State.started [] [0x80000000] [.commands 1 0]).Inv ∧
    ∃ t, step (State.started [] [0x80000000] [.commands 1 0]) = .next t :=
  ⟨⟨by decide, by decide, by decide, by decide⟩, _, rfl⟩

theorem witness_TerminalStatesAreLeftOnlyByReset :
    (∃ t, step ((audIn .error 0).present .fg [0x02000000]) = .next t) ∧ (audIn .error 0).aud.state = .error ∧
    (∀ rest, ((audIn .error 0).present .fg [0x02000000]).due ≠ .reset :: rest) ∧
    (∃ t, step ((synIn .stopped 1 1 0 0).present .fg [0x21000000]) = .next t) ∧
    (synIn .stopped 1 1 0 0).syn.state = .stopped ∧
    (∀ rest, ((synIn .stopped 1 1 0 0).present .fg [0x21000000]).due ≠ .reset :: rest) :=
  ⟨⟨_, rfl⟩, rfl, by simp [State.present], ⟨_, rfl⟩, rfl, by simp [State.present]⟩

theorem witness_ReadsChangeNoState :
    Instr.smpRdl 4095 ∈ [Instr.smpRdl 4095, .smpRdr 4095, .fbRd 3072, .xferRd 1023, .audNeedsRefill, .audGetFillHalf,
      .audGetLbuf, .audGetRbuf, .dspGetRender, .dspHasFrame, .dspGetXfer, .synAframe, .rdreg 0x2B] :=
  List.mem_cons_self

theorem witness_EventPortWritesOnlyItsRegisters :
    Instr.trig.port = .ev ∧ ∃ t, exec .trig (audIn .playing 2047) = .next t := ⟨rfl, _, rfl⟩

theorem witness_ForegroundPortWritesOnlyItsRegisters :
    Instr.dspStartXfer.port = .fg ∧ (∀ b, Instr.dspStartXfer ≠ .audInit b) ∧ Instr.dspStartXfer ≠ .dspInit ∧
    (∀ w1 w2 w3, Instr.dspStartXfer ≠ .synInit w1 w2 w3) ∧ ∃ t, exec .dspStartXfer queued = .next t :=
  ⟨rfl, by simp, by simp, by simp, _, rfl⟩

theorem witness_DacRecordsComeFromTriggersAlone :
    (∃ t, exec .trig (audIn .playing 4095) = .next t) ∧ (audIn .playing 4095).aud.state = .playing ∧
    (∃ t, exec .trig (audIn .ready 0) = .next t) ∧ (audIn .ready 0).aud.state ≠ .playing :=
  ⟨⟨_, rfl⟩, rfl, ⟨_, rfl⟩, by decide⟩

/-- The hypotheses of AudLifecycle, AudInitFillsBothBuffersWithSilence and AudStartStopAndErr: every lifecycle state. -/
theorem witness_AudLifecycle :
    (audIn .reset 0).aud.state = .reset ∧ (audIn .ready 0).aud.state = .ready ∧
    (audIn .playing 0).aud.state = .playing ∧ (audIn .error 0).aud.state ≠ .reset ∧
    (audIn .error 0).aud.state ≠ .ready ∧ (audIn .error 0).aud.state ≠ .playing ∧
    Instr.audTc ∈ [Instr.audNeedsRefill, .audGetFillHalf, .audFilled, .audGetLbuf, .audGetRbuf, .smpWrl 0 0,
      .smpWrr 0 0, .smpRdl 0, .smpRdr 0, .trig, .audHt, .audTc] := by decide

theorem witness_AudInitFillsBothBuffersWithSilence :
    State.reset.aud.state = .reset ∧ (audIn .ready 0).aud.state ≠ .reset := by decide

theorem witness_AudStartStopAndErr :
    (audIn .ready 0).aud.state = .ready ∧ (audIn .playing 4095).aud.state = .playing ∧
    (audIn .reset 0).aud.state ≠ .ready ∧ (audIn .reset 0).aud.state ≠ .playing := by decide

theorem witness_AudPolls :
    State.reset.aud.needsRefill = false ∧ State.reset.aud.fillHalf = .first ∧
    ({ Aud.atReset with needsRefill := true, fillHalf := .second } : Aud).needsRefill = true ∧
    ({ Aud.atReset with needsRefill := true, fillHalf := .second } : Aud).fillHalf = .second := by decide

theorem witness_SampleStoresWriteOneElement :
    memWf Config.smpSize ([(0, 1), (8191, 0xFFF)] : Mem 12) = true := by decide

theorem witness_AudioEventsRequestARefill :
    (Instr.audTc, Half.second) ∈ [(Instr.audHt, Half.first), (.audTc, .second)] := by decide

theorem witness_TriggerDeliversOnePair :
    (audIn .ready 0).aud.state ≠ .playing ∧ (audIn .playing 2047).aud.state = .playing ∧
    (audIn .playing 2047).aud.pos.toNat = 2047 ∧ (audIn .playing 4095).aud.pos.toNat = 4095 ∧
    (audIn .playing 2046).aud.pos.toNat ≠ 2047 ∧ (audIn .playing 2046).aud.pos.toNat ≠ 4095 := by decide

theorem witness_HalfBufferOfTriggers :
    ((2048, Half.second) : Nat × Half) ∈ [(0, Half.first), (2048, Half.second)] ∧
    (audIn .playing 2048).aud.state = .playing ∧ (audIn .playing 2048).aud.pos.toNat = 2048 ∧
    (audIn .playing 0).aud.pos.toNat = 0 := by decide

/-- A state that plays the second half and names the first for the foreground. -/
theorem witness_TriggersKeepTheNamedHalfFree :
    (audIn .playing 2048).aud.state = .playing ∧ (∃ t, exec .trig (audIn .playing 2048) = .next t) ∧
    (audIn .playing 2048).namedHalfFree ∧ (audIn .playing 4095).namedHalfFree ∧
    (audIn .playing 2047).aud.pos.toNat = 2047 ∧ (audIn .playing 4095).aud.pos.toNat = 4095 ∧
    halfOfIndex 2047 = (audIn .playing 2048).aud.fillHalf ∧ halfOfIndex 2048 = (audIn .playing 2048).playingHalf :=
  ⟨rfl, ⟨_, rfl⟩, by decide, by decide, by decide, by decide, by decide, by decide⟩

theorem witness_RefillFillsTheNamedHalf : memWf Config.smpSize State.reset.smp = true := by decide

theorem witness_LateAcknowledgementSwallowsTheRequest : (audIn .playing 0).aud.needsRefill = false := rfl

theorem witness_DspInitRestoresTheInitialRoles :
    sending.dsp.transferBusy = true ∧ queued.dsp.transferBusy = false := by decide

theorem witness_DspPolls :
    queued.dsp.framesRendered.toNat > queued.dsp.framesTransferred.toNat ∧
    ¬State.reset.dsp.framesRendered.toNat > State.reset.dsp.framesTransferred.toNat := by decide

theorem witness_StartTransferExchangesOrAnswersFalse :
    queued.dsp.transferBusy = false ∧ queued.dsp.framesRendered.toNat > queued.dsp.framesTransferred.toNat ∧
    sending.dsp.transferBusy = true ∧
    ¬State.reset.dsp.framesRendered.toNat > State.reset.dsp.framesTransferred.toNat := by decide

theorem witness_TransferReadsAndCompletion :
    sending.dsp.transferBusy = true ∧ State.reset.dsp.transferBusy = false := by decide

theorem witness_FramebufferStoresAndLoads :
    memWf Config.fbMemSize sending.fb = true ∧ (3071 : BitVec 12).toNat < 3072 ∧ 3072 ≤ (3072 : BitVec 12).toNat := by
  decide

theorem witness_DisplayInvariants :
    (∃ t, exec .dspStartXfer queued = .next t) ∧ queued.dsp.rolesDistinct ∧ queued.dsp.countersOk ∧
    sending.dsp.transferBusy = true ∧ queued.dsp.framesRendered.toNat + 1 < 2 ^ 32 :=
  ⟨⟨_, rfl⟩, by decide, by decide, by decide, by decide⟩

/-- The two ends of the render slot, here slot 0. -/
theorem witness_DrawingInTheRenderSlotNeverTears :
    sending.dsp.rolesDistinct ∧ slotBase sending.dsp.render ≤ (0 : BitVec 12).toNat ∧
    (0 : BitVec 12).toNat < slotBase sending.dsp.render + 1024 ∧
    slotBase sending.dsp.render ≤ (1023 : BitVec 12).toNat ∧
    (1023 : BitVec 12).toNat < slotBase sending.dsp.render + 1024 := by decide

theorem witness_QueuedFrameIsTheFrameSent :
    State.reset.dsp.transferBusy = false ∧
    State.reset.dsp.framesTransferred.toNat ≤ State.reset.dsp.framesRendered.toNat ∧
    State.reset.dsp.framesRendered.toNat + 1 < 2 ^ 32 := by decide

theorem witness_SupersededFrameStillCounts :
    State.reset.dsp.transferBusy = false ∧ State.reset.dsp.framesTransferred = State.reset.dsp.framesRendered ∧
    State.reset.dsp.framesRendered.toNat + 2 < 2 ^ 32 := by decide

/-- SYN_INIT outside RESET; in RESET with a zero frame rate, with a quotient of 0, and accepted with a quotient of 1. -/
theorem witness_SynInitConfiguresOrRejects :
    (synIn .ready 1 1 0 0).syn.state ≠ .reset ∧ State.reset.syn.state = .reset ∧
    (29 : Word).toNat < (30 : Word).toNat ∧ (30 : Word) ≠ 0 ∧ (30 : Word).toNat ≤ (30 : Word).toNat := by decide

theorem witness_SynStartAndStop :
    (synIn .ready 1 1 0 0).syn.state = .ready ∧ (synIn .running 1 1 0 0).syn.state ≠ .ready ∧
    (synIn .running 1 1 0 0).syn.state = .running ∧ (synIn .stopped 1 1 0 0).syn.state ≠ .running := by decide

theorem witness_TickCountsOnlyWhileRunning :
    (synIn .running 1 1 0 0).syn.state = .running ∧ State.reset.syn.state ≠ .running := by decide

theorem witness_SampleCountMovesOnlyWhileRunning :
    after (fun t => t.syn.audioSamplesPlayed) (exec (.synTick 1) (synIn .running 1 1 0 0)) = some 1 ∧
    (synIn .running 1 1 0 0).syn.audioSamplesPlayed = 0 := by decide

/-- Also at a band of 2^31, where the answer is always 0. -/
theorem witness_DecideComparesTheDriftWithTheBand :
    State.reset.syn.state ≠ .running ∧ (synIn .running 1 0x80000000 0 0).syn.state = .running ∧
    1 ≤ (synIn .running 1 0x80000000 0 0).syn.samplesPerFrame.toNat ∧
    (2 : Int) ^ 31 ≤ (synIn .running 1 0x80000000 0 0).syn.maxDriftFrames.toNat := by decide

/-- The greatest difference the law covers. -/
theorem witness_DecisionLaw :
    (synIn .running 1 2 0 0x7FFFFFFF).syn.state = .running ∧
    1 ≤ (synIn .running 1 2 0 0x7FFFFFFF).syn.samplesPerFrame.toNat ∧
    |((synIn .running 1 2 0 0x7FFFFFFF).syn.videoFramesRendered.toNat : Int) -
      (((synIn .running 1 2 0 0x7FFFFFFF).syn.audioSamplesPlayed.toNat /
        (synIn .running 1 2 0 0x7FFFFFFF).syn.samplesPerFrame.toNat : Nat) : Int)| < 2 ^ 31 := by decide

theorem witness_AudioFrameIndexIsTheQuotient :
    State.reset.syn.samplesPerFrame = 0 ∧ (synIn .stopped 1066 2 8192 0).syn.samplesPerFrame ≠ 0 := by decide

theorem witness_SynLifecycle :
    State.reset.syn.state = .reset ∧ (30 : Word) ≠ 0 ∧ (30 : Word).toNat ≤ (32000 : Word).toNat ∧
    (synIn .ready 1 1 0 0).syn.state = .ready ∧ (synIn .running 1 1 0 0).syn.state = .running ∧
    (synIn .stopped 1 1 0 0).syn.state ≠ .reset ∧ (synIn .stopped 1 1 0 0).syn.state ≠ .ready ∧
    (synIn .stopped 1 1 0 0).syn.state ≠ .running ∧
    ∃ t, exec .synDecide State.reset = .next t :=
  ⟨rfl, by decide, by decide, rfl, rfl, by decide, by decide, by decide, _, rfl⟩

/-- The register numbers at the ends of the listed ranges, and an unlisted one beside each. -/
theorem witness_RegisterReadsFollowTheLayout :
    (∀ r ∈ [(0x00 : BitVec 8), 0x04, 0x10, 0x13, 0x20, 0x2A],
      r.toNat ≤ 0x04 ∨ (0x10 ≤ r.toNat ∧ r.toNat ≤ 0x13) ∨ (0x20 ≤ r.toNat ∧ r.toNat ≤ 0x2A)) ∧
    (∀ r ∈ [(0x05 : BitVec 8), 0x0F, 0x14, 0x1F, 0x2B, 0xFF],
      ¬(r.toNat ≤ 0x04 ∨ (0x10 ≤ r.toNat ∧ r.toNat ≤ 0x13) ∨ (0x20 ≤ r.toNat ∧ r.toNat ≤ 0x2A))) := by decide

end Sys2Proof.Tests
end

section
/-! PROOFS of the statements of spec/00_scope.md: what one step performs. First the decoder reads an encoded instruction
back; then a step is taken apart into its fetch and its meaning; then every meaning ends in one response. -/

namespace Sys2Proof

/-! ## What a row's mask keeps of an encoded header (R111 to R116)

Each mask clears the operand fields of its row, so that the opcode with zero operands is left: the row's pattern. -/

theorem zeros_append_and_append_zeros {n m : Nat} (x : BitVec m) (y : BitVec n) :
    (0#n ++ x) &&& (y ++ 0#m) = 0#(n + m) := by
  rw [BitVec.and_append, BitVec.zero_and, BitVec.and_zero, BitVec.zero_append_zero]

theorem formatI_mask_immediate (op : BitVec 8) (imm : BitVec 24) : formatI op imm &&& 0xFF000000 = formatI op 0#24 := by
  have h := formatI_and op (BitVec.allOnes 8) imm 0#24
  rwa [BitVec.and_allOnes, BitVec.and_zero] at h

theorem formatI_mask_register (op reg : BitVec 8) : formatI op (0#16 ++ reg) &&& 0xFFFFFF00 = formatI op 0#24 := by
  have h := formatI_and op (BitVec.allOnes 8) (0#16 ++ reg) (0xFFFF#16 ++ 0#8)
  rwa [BitVec.and_allOnes, zeros_append_and_append_zeros] at h

theorem formatS_mask_store (op : BitVec 8) (idx val : BitVec 12) :
    formatS op idx val &&& 0xFF000000 = formatS op 0#12 0#12 := by
  have h := formatS_and op (BitVec.allOnes 8) idx 0#12 val 0#12
  rwa [BitVec.and_allOnes, BitVec.and_zero, BitVec.and_zero] at h

theorem formatS_mask_load (op : BitVec 8) (idx : BitVec 12) :
    formatS op idx 0#12 &&& 0xFF000FFF = formatS op 0#12 0#12 := by
  have h := formatS_and op (BitVec.allOnes 8) idx 0#12 0#12 0xFFF#12
  rwa [BitVec.and_allOnes, BitVec.and_zero, BitVec.zero_and] at h

theorem formatA_mask_store (op : BitVec 8) (addr : BitVec 12) (byte : BitVec 8) :
    formatA op addr byte &&& 0xFFF00000 = formatA op 0#12 0#8 := by
  have h := formatA_and op (BitVec.allOnes 8) 0xF#4 addr 0#12 byte 0#8
  rwa [BitVec.and_allOnes, BitVec.and_zero, BitVec.and_zero] at h

theorem formatA_mask_load (op : BitVec 8) (addr : BitVec 12) :
    formatA op addr 0#8 &&& 0xFFF000FF = formatA op 0#12 0#8 := by
  have h := formatA_and op (BitVec.allOnes 8) 0xF#4 addr 0#12 0#8 0xFF#8
  rwa [BitVec.and_allOnes, BitVec.and_zero, BitVec.zero_and] at h

theorem formatA_mask_offset (op : BitVec 8) (off : BitVec 10) :
    formatA op (0#2 ++ off) 0#8 &&& 0xFFFC00FF = formatA op 0#12 0#8 := by
  have h := formatA_and op (BitVec.allOnes 8) 0xF#4 (0#2 ++ off) (3#2 ++ 0#10) 0#8 0xFF#8
  rwa [BitVec.and_allOnes, zeros_append_and_append_zeros, BitVec.zero_and] at h

/-! ## The decoder reads an encoding back -/

theorem rowTest_of_masked {h pattern mask : Word} (i : Instr) (pass : h &&& mask = pattern) :
    rowTest h pattern mask i = .ok i :=
  if_pos pass

/-- A header of the FG class that takes no operand words goes to the rows of port FG. -/
theorem decode_fg_word {h : Word} {op : BitVec 8} (hop : opcodeOf h = op) (cls : op.msb = false ∧ op ≠ 0x20) :
    decode .fg [h] = decodeFg h [] := by
  obtain ⟨fg, notSynInit⟩ := cls
  have len : commandLength .fg h = 1 := if_neg (hop ▸ notSynInit)
  simp [decode, portClass_of_opcode, len, hop, fg]

/-- A header of the EV class goes to the rows of port EV. -/
theorem decode_ev_word {h : Word} {op : BitVec 8} (hop : opcodeOf h = op) (cls : op.msb = true) :
    decode .ev [h] = decodeEv h := by
  simp [decode, portClass_of_opcode, commandLength, hop, cls]

theorem decodeFg_smpWrl (idx : BitVec 12) (val : Sample) :
    decodeFg (formatS 0x09 idx val) [] = .ok (.smpWrl idx val) := by
  simpa [decodeFg, opcodeOf_formatS, idxField_formatS, valField_formatS] using
    rowTest_of_masked (pattern := 0x09000000) (.smpWrl idx val) (formatS_mask_store 0x09 idx val)

theorem decodeFg_smpWrr (idx : BitVec 12) (val : Sample) :
    decodeFg (formatS 0x0A idx val) [] = .ok (.smpWrr idx val) := by
  simpa [decodeFg, opcodeOf_formatS, idxField_formatS, valField_formatS] using
    rowTest_of_masked (pattern := 0x0A000000) (.smpWrr idx val) (formatS_mask_store 0x0A idx val)

theorem decodeFg_smpRdl (idx : BitVec 12) : decodeFg (formatS 0x0B idx 0) [] = .ok (.smpRdl idx) := by
  simpa [decodeFg, opcodeOf_formatS, idxField_formatS] using
    rowTest_of_masked (pattern := 0x0B000000) (.smpRdl idx) (formatS_mask_load 0x0B idx)

theorem decodeFg_smpRdr (idx : BitVec 12) : decodeFg (formatS 0x0C idx 0) [] = .ok (.smpRdr idx) := by
  simpa [decodeFg, opcodeOf_formatS, idxField_formatS] using
    rowTest_of_masked (pattern := 0x0C000000) (.smpRdr idx) (formatS_mask_load 0x0C idx)

theorem decodeFg_fbWr (addr : BitVec 12) (byte : Byte) :
    decodeFg (formatA 0x16 addr byte) [] = .ok (.fbWr addr byte) := by
  simpa [decodeFg, opcodeOf_formatA, addrField_formatA, byteField_formatA] using
    rowTest_of_masked (pattern := 0x16000000) (.fbWr addr byte) (formatA_mask_store 0x16 addr byte)

theorem decodeFg_fbRd (addr : BitVec 12) : decodeFg (formatA 0x17 addr 0) [] = .ok (.fbRd addr) := by
  simpa [decodeFg, opcodeOf_formatA, addrField_formatA] using
    rowTest_of_masked (pattern := 0x17000000) (.fbRd addr) (formatA_mask_load 0x17 addr)

theorem decodeFg_rdreg (reg : BitVec 8) : decodeFg (formatI 0x30 (0#16 ++ reg)) [] = .ok (.rdreg reg) := by
  simpa [decodeFg, opcodeOf_formatI, regField_formatI] using
    rowTest_of_masked (pattern := 0x30000000) (.rdreg reg) (formatI_mask_register 0x30 reg)

theorem decodeEv_synTick (cnt : BitVec 24) : decodeEv (formatI 0x85 cnt) = .ok (.synTick cnt) := by
  simpa [decodeEv, opcodeOf_formatI, cntField_formatI] using
    rowTest_of_masked (pattern := 0x85000000) (.synTick cnt) (formatI_mask_immediate 0x85 cnt)

theorem decodeEv_xferRd (off : BitVec 10) : decodeEv (formatA 0x86 (0#2 ++ off) 0) = .ok (.xferRd off) := by
  simpa [decodeEv, opcodeOf_formatA, offField_formatA] using
    rowTest_of_masked (pattern := 0x86000000) (.xferRd off) (formatA_mask_offset 0x86 off)

/-- Every instruction's words, on the instruction's port, decode to the instruction. Where the words are one header
without operand fields, or SYN_INIT's, the decoder computes it; a row with fields has its own lemma. -/
theorem decode_encode (i : Instr) : decode i.port (encode i) = .ok i := by
  cases i with
  | audInit attach => cases attach <;> rfl
  | smpWrl idx val => exact (decode_fg_word (opcodeOf_formatS _ _ _) (by decide)).trans (decodeFg_smpWrl idx val)
  | smpWrr idx val => exact (decode_fg_word (opcodeOf_formatS _ _ _) (by decide)).trans (decodeFg_smpWrr idx val)
  | smpRdl idx => exact (decode_fg_word (opcodeOf_formatS _ _ _) (by decide)).trans (decodeFg_smpRdl idx)
  | smpRdr idx => exact (decode_fg_word (opcodeOf_formatS _ _ _) (by decide)).trans (decodeFg_smpRdr idx)
  | fbWr addr byte => exact (decode_fg_word (opcodeOf_formatA _ _ _) (by decide)).trans (decodeFg_fbWr addr byte)
  | fbRd addr => exact (decode_fg_word (opcodeOf_formatA _ _ _) (by decide)).trans (decodeFg_fbRd addr)
  | rdreg reg => exact (decode_fg_word (opcodeOf_formatI _ _) (by decide)).trans (decodeFg_rdreg reg)
  | synTick cnt => exact (decode_ev_word (opcodeOf_formatI _ _) (by decide)).trans (decodeEv_synTick cnt)
  | xferRd off => exact (decode_ev_word (opcodeOf_formatA _ _ _) (by decide)).trans (decodeEv_xferRd off)
  | synInit w1 w2 w3 => rfl
  | audStart | audStop | audNeedsRefill | audGetFillHalf | audFilled | audGetLbuf | audGetRbuf => rfl
  | dspInit | dspGetRender | dspSwap | dspHasFrame | dspStartXfer | dspGetXfer => rfl
  | synStart | synStop | synDecide | synRendered | synSkipped | synAframe => rfl
  | trig | audHt | audTc | audErr | dspDone => rfl

/-- A legal command is whole: a header of the port's class and the operand words R120 gives it. -/
theorem decode_eq_ok {p : Port} {ws : List Word} {i : Instr} (legal : decode p ws = .ok i) :
    ∃ h ops, ws = h :: ops ∧ portClass h = p ∧ ops.length + 1 = commandLength p h := by
  cases ws with
  | nil => cases legal
  | cons h ops =>
    by_cases cls : portClass h = p
    · by_cases len : ops.length + 1 = commandLength p h
      · exact ⟨h, ops, rfl, cls, len⟩
      · simp [decode, cls, len] at legal
    · simp [decode, cls] at legal

/-! ## A stream that ends inside its command (R120) -/

theorem takeCommand_nil (p : Port) : takeCommand p [] = none := rfl

theorem takeCommand_short {p : Port} {h : Word} {ops : List Word} (short : ops.length + 1 < commandLength p h) :
    takeCommand p (h :: ops) = none := by
  simp only [takeCommand, List.length_cons, if_pos short]

end Sys2Proof

namespace Sys2Proof.Machine

/-! ## Fetch -/

theorem fetch_nothing_due {s : State} (idle : s.due = []) : fetch s = .quiet s := by
  unfold fetch
  rw [idle]

/-- A turn of port FG whose stream holds no whole command passes, and only the instant is used up. -/
theorem fetch_fg_pass {s : State} {fg : Nat} {rest : List Due} (turn : s.due = .commands 0 (fg + 1) :: rest)
    (waiting : takeCommand .fg s.fgIn = none) : fetch s = .quiet { s with due := rest } := by
  unfold fetch
  simp only [turn, waiting]

/-- A whole command presented is what is fetched, and taking it leaves the ports as they were before. -/
theorem fetch_present {p : Port} {h : Word} {ops : List Word} (s : State)
    (whole : ops.length + 1 = commandLength p h) : fetch (s.present p (h :: ops)) = .command p (h :: ops) s := by
  cases p with
  | fg =>
    have taken := takeCommand_append s.fgIn whole
    rw [List.cons_append] at taken
    simp [fetch, State.present, stillDue, taken]
  | ev =>
    obtain rfl : ops = [] := List.length_eq_zero_iff.1 (Nat.succ_injective whole)
    simp [fetch, State.present, stillDue, takeEvent_one]

/-! ## A step is a fetch and a meaning (R8) -/

theorem step_of_fetch_quiet {s t : State} (quiet : fetch s = .quiet t) : step s = .next t := by
  simp only [step, quiet]

theorem step_of_fetch_command {s t : State} {p : Port} {ws : List Word} {i : Instr}
    (fetched : fetch s = .command p ws t) (legal : decode p ws = .ok i) : step s = exec i t := by
  simp only [step, fetched, legal]

/-- A legal command presented alone at the next instant is what the next step performs. -/
theorem step_present {p : Port} {ws : List Word} {i : Instr} (s : State) (legal : decode p ws = .ok i) :
    step (s.present p ws) = exec i s := by
  obtain ⟨h, ops, rfl, -, whole⟩ := decode_eq_ok legal
  exact step_of_fetch_command (fetch_present s whole) legal

/-! ## Every meaning ends in one response (R14) -/

/-- The two states hold the same words, the same instants and the same record of responses at their ports. -/
def SamePorts (s t : State) : Prop :=
  t.fgIn = s.fgIn ∧ t.evIn = s.evIn ∧ t.due = s.due ∧ t.responses = s.responses

theorem SamePorts.refl (s : State) : SamePorts s s := ⟨rfl, rfl, rfl, rfl⟩

theorem SamePorts.trans {s t u : State} (st : SamePorts s t) (tu : SamePorts t u) : SamePorts s u := by
  obtain ⟨fg, ev, due, responses⟩ := st
  obtain ⟨fg', ev', due', responses'⟩ := tu
  exact ⟨fg'.trans fg, ev'.trans ev, due'.trans due, responses'.trans responses⟩

theorem setAud_samePorts (s : State) (a : Aud) : SamePorts s (s.setAud a) := ⟨rfl, rfl, rfl, rfl⟩

theorem setDsp_samePorts (s : State) (d : Dsp) : SamePorts s (s.setDsp d) := ⟨rfl, rfl, rfl, rfl⟩

theorem setSyn_samePorts (s : State) (y : Syn) : SamePorts s (s.setSyn y) := ⟨rfl, rfl, rfl, rfl⟩

theorem setSmp_samePorts (s : State) (m : Mem 12) : SamePorts s (s.setSmp m) := ⟨rfl, rfl, rfl, rfl⟩

theorem setFb_samePorts (s : State) (m : Mem 8) : SamePorts s (s.setFb m) := ⟨rfl, rfl, rfl, rfl⟩

theorem emitDac_samePorts (s : State) (l r : Sample) : SamePorts s (s.emitDac l r) := ⟨rfl, rfl, rfl, rfl⟩

theorem synTick_samePorts (cnt : BitVec 24) (s : State) : SamePorts s (synTick cnt s) := by
  rw [synTick_eq]
  exact setSyn_samePorts _ _

theorem audEvent_samePorts (h : Half) (s : State) : SamePorts s (audEvent h s) := by
  rw [audEvent_eq]
  exact (setAud_samePorts _ _).trans (setSyn_samePorts _ _)

theorem sequencerStep_samePorts (s : State) : SamePorts s (sequencerStep s) := by
  have moved : SamePorts s (movedOn s) := (emitDac_samePorts _ _ _).trans (setAud_samePorts _ _)
  rw [sequencerStep_eq]
  rcases raiseAtPosition_cases (movedOn s) with ⟨-, half⟩ | ⟨-, wrap⟩ | ⟨-, -, none⟩
  · rw [half]; exact moved.trans (audEvent_samePorts _ _)
  · rw [wrap]; exact moved.trans (audEvent_samePorts _ _)
  · rw [none]; exact moved

/-- The two ends of an operation of port `p` from the state `s`: accepted, its effect left the ports alone and the one
response is OK; or rejected with INVALID_PARAM or BAD_STATE, from `s` itself (R14, R261). -/
inductive EndsOn (p : Port) (s : State) : Answer → Prop
  | accepted (v : Word) {t : State} (effect : SamePorts s t) : EndsOn p s (returnOk p v t)
  | rejected {st : Status} (cause : st = .invalidParam ∨ st = .badState) : EndsOn p s (raise p st s)

namespace EndsOn

variable {p : Port} {s : State}

/-- An operation that answers and does nothing else. -/
theorem answered (v : Word) : EndsOn p s (returnOk p v s) := accepted v (SamePorts.refl s)

theorem badState : EndsOn p s (raise p .badState s) := rejected (.inr rfl)

theorem invalidParam : EndsOn p s (raise p .invalidParam s) := rejected (.inl rfl)

/-- A meaning with a test ends as its two branches do. -/
theorem ite {c : Prop} [Decidable c] {a b : Answer} (yes : EndsOn p s a) (no : EndsOn p s b) :
    EndsOn p s (if c then a else b) := by
  split
  · exact yes
  · exact no

end EndsOn

theorem storeSample_endsOn (idx : BitVec 12) (addr : Nat) (val : Sample) (s : State) :
    EndsOn .fg s (storeSample idx addr val s) := by
  rw [storeSample_eq]
  exact .accepted 0 (setSmp_samePorts _ _)

theorem loadSample_endsOn (idx : BitVec 12) (addr : Nat) (s : State) : EndsOn .fg s (loadSample idx addr s) := by
  rw [loadSample_eq]
  exact .answered _

theorem execRdreg_endsOn (reg : BitVec 8) (s : State) : EndsOn .fg s (execRdreg reg s) := by
  unfold execRdreg
  split
  · exact .answered _
  · exact .invalidParam

/-- Everything an operation can end in, on its own port. -/
theorem exec_endsOn (i : Instr) (s : State) : EndsOn i.port s (exec i s) := by
  cases i with
  | audInit attach => exact .ite .badState (.accepted 0 ((setSmp_samePorts _ _).trans (setAud_samePorts _ _)))
  | audNeedsRefill | audGetFillHalf | audGetLbuf | audGetRbuf => exact .answered _
  | audStart => exact .ite .badState (.accepted 0 (setAud_samePorts _ _))
  | audStop => exact .ite .badState (.accepted 0 (setAud_samePorts _ _))
  | audFilled => exact .accepted 0 (setAud_samePorts _ _)
  | smpWrl idx val => exact storeSample_endsOn idx (leftAddr idx) val s
  | smpWrr idx val => exact storeSample_endsOn idx (rightAddr idx) val s
  | smpRdl idx => exact loadSample_endsOn idx (leftAddr idx) s
  | smpRdr idx => exact loadSample_endsOn idx (rightAddr idx) s
  | dspInit => exact .ite .badState (.accepted 0 (setDsp_samePorts _ _))
  | dspGetRender | dspHasFrame | dspGetXfer => exact .answered _
  | dspSwap => exact .accepted 0 (setDsp_samePorts _ _)
  | dspStartXfer => exact .ite (.answered 0) (.ite (.answered 0) (.accepted 1 (setDsp_samePorts _ _)))
  | fbWr addr byte => exact .ite (.accepted 0 (setFb_samePorts _ _)) .invalidParam
  | fbRd addr => exact .ite (.answered _) .invalidParam
  | synInit rate fps maxDrift =>
    exact .ite .badState (.ite .invalidParam (.ite .invalidParam (.accepted 0 (setSyn_samePorts _ _))))
  | synStart => exact .ite .badState (.accepted 0 (setSyn_samePorts _ _))
  | synStop => exact .ite .badState (.accepted 0 (setSyn_samePorts _ _))
  | synDecide => exact .ite (.answered _) (.accepted _ (setSyn_samePorts _ _))
  | synRendered => exact .accepted 0 (setSyn_samePorts _ _)
  | synSkipped => exact .accepted 0 (setSyn_samePorts _ _)
  | synAframe => exact .ite .badState (.answered _)
  | rdreg reg => exact execRdreg_endsOn reg s
  | trig => exact .ite (.answered 0) (.accepted 0 (sequencerStep_samePorts s))
  | audHt => exact .accepted 0 (audEvent_samePorts .first s)
  | audTc => exact .accepted 0 (audEvent_samePorts .second s)
  | audErr => exact .ite .badState (.accepted 0 (setAud_samePorts _ _))
  | dspDone => exact .ite (.accepted 0 (setDsp_samePorts _ _)) .badState
  | synTick cnt => exact .accepted 0 (synTick_samePorts cnt s)
  | xferRd off => exact .ite (.answered _) .badState

/-! ## The statements -/

/-- Settles O6: what a fetched command can change, and the step as the meaning of what it decodes to. -/
theorem stepRunsTheDecodedInstruction : Obligations.StepRunsTheDecodedInstruction := by
  intro s s' p ws i fetched legal
  obtain ⟨-, portsOnly⟩ := fetch_command fetched
  exact ⟨step_of_fetch_command fetched legal, portsOnly⟩

/-- Settles O14: in both cases the fetch is quiet; SYN_INIT's header asks for four words (R120). -/
theorem quietTurnsChangeNoRegister : Obligations.QuietTurnsChangeNoRegister := by
  refine ⟨fun s idle => step_of_fetch_quiet (fetch_nothing_due idle), fun s fg rest turn stream => ?_⟩
  refine step_of_fetch_quiet (fetch_fg_pass turn ?_)
  rcases stream with empty | ⟨h, ops, words, synInit, short⟩
  · rw [empty, takeCommand_nil]
  · have four : commandLength .fg h = 4 := if_pos synInit
    rw [words, takeCommand_short (by omega)]

/-- Settles O7: an encoding decodes back to its instruction, and a legal command presented is performed. -/
theorem presentedInstructionRunsNext : Obligations.PresentedInstructionRunsNext := by
  intro i s
  exact step_present s (decode_encode i)

/-- Settles O21: both ends of an operation append one response, and a rejection starts from the state as it was. -/
theorem everyOperationAnswersOnce : Obligations.EveryOperationAnswersOnce := by
  intro i s
  have ends := exec_endsOn i s
  generalize exec i s = a at ends
  cases ends with
  | @accepted v t effect =>
    obtain ⟨-, -, -, record⟩ := effect
    exact ⟨t.answer i.port .ok v, ⟨i.port, .ok, v⟩, rfl, by rw [State.answer_responses, record], rfl, nofun,
      fun notOk => absurd rfl notOk⟩
  | @rejected st cause =>
    have notIllegal : st ≠ .illegalOp := by rcases cause with rfl | rfl <;> decide
    exact ⟨s.answer i.port st 0, ⟨i.port, st, 0⟩, rfl, State.answer_responses _ _ _ _, rfl, notIllegal,
      fun _ => rfl⟩

end Sys2Proof.Machine
end

section
/-! PROOFS of the statements of spec/10_state.md: the values after reset, the invariants of every run, the writers of the
sample count, and the registers as RDREG shows them. -/

namespace Sys2Proof.Machine

/-! ## Where an operation leads -/

/-- An outcome is a next state, and that state has the property. -/
def LeadsTo (P : State → Prop) (a : Answer) : Prop := ∃ t, a = .next t ∧ P t

namespace LeadsTo

variable {P : State → Prop}

theorem accepted {p : Port} {v : Word} {t : State} (holds : P (t.answer p .ok v)) : LeadsTo P (returnOk p v t) :=
  ⟨_, rfl, holds⟩

theorem rejected {p : Port} {st : Status} {s : State} (holds : P (s.answer p st 0)) : LeadsTo P (raise p st s) :=
  ⟨_, rfl, holds⟩

/-- A meaning with a test leads where its two branches do, each under what the test says. -/
theorem ite {c : Prop} [Decidable c] {a b : Answer} (yes : c → LeadsTo P a) (no : ¬c → LeadsTo P b) :
    LeadsTo P (if c then a else b) := by
  split
  · exact yes ‹_›
  · exact no ‹_›

/-- The state an outcome names is the one it leads to. -/
theorem of_eq_next {a : Answer} {t : State} (leads : LeadsTo P a) (ran : a = .next t) : P t := by
  obtain ⟨u, reached, holds⟩ := leads
  rw [ran] at reached
  cases reached
  exact holds

end LeadsTo

/-- RDREG only answers: with the register's value, or with INVALID_PARAM (R250). -/
theorem execRdreg_leadsTo {P : State → Prop} {reg : BitVec 8} {s : State}
    (holds : ∀ st v, P (s.answer .fg st v)) : LeadsTo P (execRdreg reg s) := by
  unfold execRdreg
  split
  · exact .accepted (holds _ _)
  · exact .rejected (holds _ _)

/-- A property that every step keeps holds at the end of every run, and the run does reach a state. -/
theorem run_leadsTo {P : State → Prop} (keeps : ∀ s, P s → LeadsTo P (step s)) (n : Nat) {s : State} (start : P s) :
    LeadsTo P (Host.Core.run Sys2Proof.core n s) := by
  induction n generalizing s with
  | zero => exact ⟨s, rfl, start⟩
  | succ n ih =>
    obtain ⟨t, stepped, holds⟩ := keeps s start
    rw [run_succ stepped]
    exact ih holds

/-! ## The invariants of the units' registers -/

/-- The exchange of R192 permutes the roles. -/
theorem Dsp.rolesDistinct.swapRenderReady {d : Dsp} (roles : d.rolesDistinct) : d.swapRenderReady.rolesDistinct := by
  obtain ⟨renderReady, readyTransfer, renderTransfer⟩ := roles
  exact ⟨renderReady.symm, renderTransfer, readyTransfer⟩

/-- The exchange of R194 permutes the roles. -/
theorem Dsp.rolesDistinct.swapReadyTransfer {d : Dsp} (roles : d.rolesDistinct) :
    d.swapReadyTransfer.rolesDistinct := by
  obtain ⟨renderReady, readyTransfer, renderTransfer⟩ := roles
  exact ⟨renderTransfer, readyTransfer.symm, renderReady⟩

theorem Dsp.atReset_rolesDistinct : Dsp.atReset.rolesDistinct := by decide

/-- DSP_INIT restores the roles of reset (R50, R190). -/
theorem Dsp.initialised_rolesDistinct (d : Dsp) : d.initialised.rolesDistinct := Dsp.atReset_rolesDistinct

theorem one_le_toNat_of_ne_zero {w : Word} (nonzero : w ≠ 0) : 1 ≤ w.toNat :=
  Nat.one_le_iff_ne_zero.2 fun zero => nonzero (BitVec.eq_of_toNat_eq zero)

/-- What SYN_INIT accepts is a divisor of at least 1, and a band of 0 becomes the default (R37, R38, R220). -/
theorem Syn.configured_configOk {rate fps : Word} (maxDrift : Word) (divisor : rate / fps ≠ 0) :
    (Syn.configured rate fps maxDrift).configOk := by
  refine ⟨nofun, fun _ => ⟨one_le_toNat_of_ne_zero divisor, one_le_toNat_of_ne_zero ?_⟩⟩
  show (if maxDrift = 0 then Config.defaultMaxDrift else maxDrift) ≠ 0
  split
  · decide
  · assumption

theorem Syn.configured_statsOk (rate fps maxDrift : Word) : (Syn.configured rate fps maxDrift).statsOk :=
  ⟨rfl, Int.le_refl 0, Int.le_refl 0⟩

/-- Starting and stopping keep the configuration: neither leaves or enters RESET (R221, R222). -/
theorem Syn.configOk.withState {y : Syn} (config : y.configOk) {st : SynState} (was : y.state ≠ .reset)
    (is : st ≠ .reset) : Syn.configOk { y with state := st } := by
  obtain ⟨-, initialised⟩ := config
  exact ⟨fun reset => absurd reset is, fun _ => initialised was⟩

/-- The running maximum only grows and the running minimum only falls (R43, R44, R225). -/
theorem Syn.statsOk.recordDrift {y : Syn} (stats : y.statsOk) : y.recordDrift.statsOk := by
  obtain ⟨repeated, greatest, least⟩ := stats
  refine ⟨repeated, ?_, ?_⟩
  · rw [Syn.recordDrift_maxDrift, maxSigned_toInt]; exact greatest.trans (le_max_left _ _)
  · rw [Syn.recordDrift_minDrift, minSigned_toInt]; exact (min_le_left _ _).trans least

theorem tickedSyn_configOk {y : Syn} (cnt : BitVec 24) (config : y.configOk) : (tickedSyn cnt y).configOk := by
  obtain ⟨divisor, band⟩ := tickedSyn_config cnt y
  rwa [Syn.configOk, tickedSyn_state, divisor, band]

theorem tickedSyn_statsOk {y : Syn} (cnt : BitVec 24) (stats : y.statsOk) : (tickedSyn cnt y).statsOk := by
  obtain ⟨repeated, greatest, least⟩ := tickedSyn_stats cnt y
  rwa [Syn.statsOk, repeated, greatest, least]

/-! ## The invariants under each write of the state -/

/-- The invariants speak of the display, the synchroniser and the memories alone. -/
theorem State.Inv.congr {s t : State} (inv : s.Inv) (dsp : t.dsp = s.dsp) (syn : t.syn = s.syn) (smp : t.smp = s.smp)
    (fb : t.fb = s.fb) : t.Inv := by
  obtain ⟨roles, config, stats, samples, frames⟩ := inv
  exact ⟨dsp ▸ roles, syn ▸ config, syn ▸ stats, smp ▸ samples, fb ▸ frames⟩

section
variable {s : State} (inv : s.Inv)
include inv

theorem State.Inv.setAud (a : Aud) : (s.setAud a).Inv := inv.congr rfl rfl rfl rfl

theorem State.Inv.emitDac (l r : Sample) : (s.emitDac l r).Inv := inv.congr rfl rfl rfl rfl

theorem State.Inv.answer (p : Port) (st : Status) (v : Word) : (s.answer p st v).Inv := inv.congr rfl rfl rfl rfl

theorem State.Inv.setDsp {d : Dsp} (roles : d.rolesDistinct) : (s.setDsp d).Inv :=
  ⟨roles, inv.config, inv.stats, inv.memory⟩

theorem State.Inv.setSyn {y : Syn} (config : y.configOk) (stats : y.statsOk) : (s.setSyn y).Inv :=
  ⟨inv.roles, config, stats, inv.memory⟩

theorem State.Inv.setSmp {m : Mem 12} (canonical : memWf Config.smpSize m = true) : (s.setSmp m).Inv :=
  ⟨inv.roles, inv.config, inv.stats, canonical, inv.memory.2⟩

theorem State.Inv.setFb {m : Mem 8} (canonical : memWf Config.fbMemSize m = true) : (s.setFb m).Inv :=
  ⟨inv.roles, inv.config, inv.stats, inv.memory.1, canonical⟩

theorem State.Inv.accepted {p : Port} {v : Word} : LeadsTo State.Inv (returnOk p v s) :=
  .accepted (inv.answer p .ok v)

theorem State.Inv.rejected {p : Port} {st : Status} : LeadsTo State.Inv (raise p st s) :=
  .rejected (inv.answer p st 0)

theorem State.Inv.accepted_setDsp {p : Port} {v : Word} {d : Dsp} (roles : d.rolesDistinct) :
    LeadsTo State.Inv (returnOk p v (s.setDsp d)) :=
  (inv.setDsp roles).accepted

theorem State.Inv.accepted_setSyn {p : Port} {v : Word} {y : Syn} (config : y.configOk) (stats : y.statsOk) :
    LeadsTo State.Inv (returnOk p v (s.setSyn y)) :=
  (inv.setSyn config stats).accepted

theorem State.Inv.synTick (cnt : BitVec 24) : (synTick cnt s).Inv := by
  rw [synTick_eq]
  exact inv.setSyn (tickedSyn_configOk cnt inv.config) (tickedSyn_statsOk cnt inv.stats)

theorem State.Inv.audEvent (h : Half) : (audEvent h s).Inv := by
  rw [audEvent_eq]
  split
  · exact (inv.setAud _).setSyn (tickedSyn_configOk _ inv.config) (tickedSyn_statsOk _ inv.stats)
  · exact (inv.setAud _).setSyn inv.config inv.stats

theorem State.Inv.sequencerStep : (sequencerStep s).Inv := by
  have moved : (movedOn s).Inv := (inv.emitDac _ _).setAud _
  rw [sequencerStep_eq]
  rcases raiseAtPosition_cases (movedOn s) with ⟨-, half⟩ | ⟨-, wrap⟩ | ⟨-, -, none⟩
  · rw [half]; exact moved.audEvent .first
  · rw [wrap]; exact moved.audEvent .second
  · rw [none]; exact moved

/-! ## Every operation keeps the invariants -/

theorem storeSample_keeps_inv {idx : BitVec 12} {addr : Nat} {val : Sample} (inSpace : addr < Config.smpSize) :
    LeadsTo State.Inv (storeSample idx addr val s) := by
  rw [storeSample_eq]
  exact (inv.setSmp (memWf_memWrite inv.memory.1 val inSpace)).accepted

theorem loadSample_keeps_inv (idx : BitVec 12) (addr : Nat) : LeadsTo State.Inv (loadSample idx addr s) := by
  rw [loadSample_eq]
  exact inv.accepted

theorem execFbWr_keeps_inv (addr : BitVec 12) (byte : Byte) : LeadsTo State.Inv (execFbWr addr byte s) := by
  refine .ite (fun inSpace => ?_) fun _ => inv.rejected
  exact (inv.setFb (memWf_memWrite inv.memory.2 byte ((fbAddrInRange_iff addr).1 inSpace))).accepted

theorem execSynInit_keeps_inv (rate fps maxDrift : Word) : LeadsTo State.Inv (execSynInit rate fps maxDrift s) := by
  refine .ite (fun _ => inv.rejected) fun _ => .ite (fun _ => inv.rejected) fun _ =>
    .ite (fun _ => inv.rejected) fun divisor => ?_
  exact inv.accepted_setSyn (Syn.configured_configOk maxDrift divisor) (Syn.configured_statsOk _ _ _)

theorem execSynStart_keeps_inv : LeadsTo State.Inv (execSynStart s) := by
  refine .ite (fun _ => inv.rejected) fun notRejected => inv.accepted_setSyn (inv.config.withState ?_ nofun) inv.stats
  rw [not_not.1 notRejected]
  nofun

theorem execSynStop_keeps_inv : LeadsTo State.Inv (execSynStop s) := by
  refine .ite (fun _ => inv.rejected) fun notRejected => inv.accepted_setSyn (inv.config.withState ?_ nofun) inv.stats
  rw [not_not.1 notRejected]
  nofun

theorem exec_keeps_inv (i : Instr) : LeadsTo State.Inv (exec i s) := by
  cases i with
  | audInit attach =>
    exact .ite (fun _ => inv.rejected) fun _ => ((inv.setSmp (memWf_memFill _ _)).setAud _).accepted
  | audStart => exact .ite (fun _ => inv.rejected) fun _ => (inv.setAud _).accepted
  | audStop => exact .ite (fun _ => inv.rejected) fun _ => (inv.setAud _).accepted
  | audErr => exact .ite (fun _ => inv.rejected) fun _ => (inv.setAud _).accepted
  | audFilled => exact (inv.setAud _).accepted
  | audNeedsRefill | audGetFillHalf | audGetLbuf | audGetRbuf => exact inv.accepted
  | smpWrl idx val => exact storeSample_keeps_inv inv (leftAddr_lt idx)
  | smpWrr idx val => exact storeSample_keeps_inv inv (rightAddr_lt idx)
  | smpRdl idx => exact loadSample_keeps_inv inv idx (leftAddr idx)
  | smpRdr idx => exact loadSample_keeps_inv inv idx (rightAddr idx)
  | dspInit => exact .ite (fun _ => inv.rejected) fun _ => inv.accepted_setDsp s.dsp.initialised_rolesDistinct
  | dspSwap => exact inv.accepted_setDsp inv.roles.swapRenderReady
  | dspStartXfer =>
    exact .ite (fun _ => inv.accepted) fun _ => .ite (fun _ => inv.accepted) fun _ =>
      inv.accepted_setDsp inv.roles.swapReadyTransfer
  | dspDone => exact .ite (fun _ => inv.accepted_setDsp inv.roles) fun _ => inv.rejected
  | dspGetRender | dspHasFrame | dspGetXfer => exact inv.accepted
  | fbWr addr byte => exact execFbWr_keeps_inv inv addr byte
  | fbRd addr => exact .ite (fun _ => inv.accepted) fun _ => inv.rejected
  | xferRd off => exact .ite (fun _ => inv.accepted) fun _ => inv.rejected
  | synInit rate fps maxDrift => exact execSynInit_keeps_inv inv rate fps maxDrift
  | synStart => exact execSynStart_keeps_inv inv
  | synStop => exact execSynStop_keeps_inv inv
  | synDecide =>
    exact .ite (fun _ => inv.accepted) fun _ => inv.accepted_setSyn inv.config inv.stats.recordDrift
  | synRendered => exact inv.accepted_setSyn inv.config inv.stats
  | synSkipped => exact inv.accepted_setSyn inv.config inv.stats
  | synAframe => exact .ite (fun _ => inv.rejected) fun _ => inv.accepted
  | rdreg reg => exact execRdreg_leadsTo (inv.answer .fg)
  | trig => exact .ite (fun _ => inv.accepted) fun _ => inv.sequencerStep.accepted
  | audHt => exact (inv.audEvent .first).accepted
  | audTc => exact (inv.audEvent .second).accepted
  | synTick cnt => exact (inv.synTick cnt).accepted

end

/-! ## Every step keeps the invariants -/

theorem State.reset_inv : State.reset.Inv := ⟨by decide, by decide, by decide, by decide⟩

theorem State.started_inv (fg ev : List Word) (due : List Due) : (State.started fg ev due).Inv :=
  State.reset_inv.congr rfl rfl rfl rfl

theorem State.applyReset_inv (s : State) : s.applyReset.Inv := State.reset_inv.congr rfl rfl rfl rfl

theorem fetch_quiet_keeps_inv {s t : State} (inv : s.Inv) (quiet : fetch s = .quiet t) : t.Inv := by
  rcases fetch_quiet quiet with ⟨-, rfl⟩ | ⟨rest, -, rfl⟩ | ⟨ev, fg, rest, due, -, rfl⟩
  · exact inv
  · exact State.applyReset_inv _
  · exact inv.congr rfl rfl rfl rfl

theorem fetch_command_keeps_inv {s t : State} {p : Port} {ws : List Word} (inv : s.Inv)
    (fetched : fetch s = .command p ws t) : t.Inv := by
  obtain ⟨-, fgIn, evIn, due, rfl⟩ := fetch_command fetched
  exact inv.congr rfl rfl rfl rfl

theorem step_of_fetch_illegal {s t : State} {p : Port} {ws : List Word} {e : Illegal}
    (fetched : fetch s = .command p ws t) (illegal : decode p ws = .error e) : step s = rejectIllegal p t := by
  simp only [step, fetched, illegal]

theorem step_keeps_inv (s : State) (inv : s.Inv) : LeadsTo State.Inv (step s) := by
  cases fetched : fetch s with
  | quiet t => exact ⟨t, step_of_fetch_quiet fetched, fetch_quiet_keeps_inv inv fetched⟩
  | command p ws t =>
    have taken := fetch_command_keeps_inv inv fetched
    cases decoded : decode p ws with
    | ok i => rw [step_of_fetch_command fetched decoded]; exact exec_keeps_inv taken i
    | error e => rw [step_of_fetch_illegal fetched decoded]; exact taken.rejected

/-! ## What moves the sample count (R39, R223) -/

/-- `syn.audio_samples_played` reads the same in both states. -/
def SameSampleCount (s t : State) : Prop := t.syn.audioSamplesPlayed = s.syn.audioSamplesPlayed

/-- The writers of `syn.audio_samples_played`: an accepted SYN_INIT in RESET; in RUNNING, SYN_TICK and what can perform an
audio event while a synchroniser is attached. -/
def WritesSampleCount (i : Instr) (s : State) : Prop :=
  ((∃ w1 w2 w3, i = .synInit w1 w2 w3) ∧ s.syn.state = .reset) ∨
    (s.syn.state = .running ∧ ((∃ cnt, i = .synTick cnt) ∨
      (s.aud.syncAttached = true ∧ (i = .audHt ∨ i = .audTc ∨ (i = .trig ∧ s.aud.state = .playing)))))

theorem tickedSyn_of_not_running {cnt : BitVec 24} {y : Syn} (idle : y.state ≠ .running) : tickedSyn cnt y = y :=
  if_neg idle

theorem audEvent_sameSampleCount_or (h : Half) (s : State) :
    SameSampleCount s (audEvent h s) ∨ (s.syn.state = .running ∧ s.aud.syncAttached = true) := by
  rw [audEvent_eq]
  by_cases attached : s.aud.syncAttached = true
  · by_cases running : s.syn.state = .running
    · exact .inr ⟨running, attached⟩
    · rw [if_pos attached, tickedSyn_of_not_running running]; exact .inl rfl
  · rw [if_neg attached]; exact .inl rfl

theorem sequencerStep_sameSampleCount_or (s : State) :
    SameSampleCount s (sequencerStep s) ∨ (s.syn.state = .running ∧ s.aud.syncAttached = true) := by
  rw [sequencerStep_eq]
  rcases raiseAtPosition_cases (movedOn s) with ⟨-, half⟩ | ⟨-, wrap⟩ | ⟨-, -, none⟩
  · rw [half]; exact audEvent_sameSampleCount_or .first (movedOn s)
  · rw [wrap]; exact audEvent_sameSampleCount_or .second (movedOn s)
  · rw [none]; exact .inl rfl

/-- Every operation keeps the sample count or is one of its writers. -/
theorem exec_sameSampleCount_or (i : Instr) (s : State) :
    LeadsTo (SameSampleCount s) (exec i s) ∨ WritesSampleCount i s := by
  cases i with
  | synInit rate fps maxDrift =>
    by_cases reset : s.syn.state = .reset
    · exact .inr (.inl ⟨⟨rate, fps, maxDrift, rfl⟩, reset⟩)
    · exact .inl (.ite (fun _ => .rejected rfl) (absurd reset))
  | synTick cnt =>
    rcases synTick_cases cnt s with ⟨running, -⟩ | ⟨-, dropped⟩
    · exact .inr (.inr ⟨running, .inl ⟨cnt, rfl⟩⟩)
    · have same : SameSampleCount s (synTick cnt s) := dropped.symm ▸ rfl
      exact .inl (.accepted same)
  | audHt =>
    rcases audEvent_sameSampleCount_or .first s with same | ⟨running, attached⟩
    · exact .inl (.accepted same)
    · exact .inr (.inr ⟨running, .inr ⟨attached, .inl rfl⟩⟩)
  | audTc =>
    rcases audEvent_sameSampleCount_or .second s with same | ⟨running, attached⟩
    · exact .inl (.accepted same)
    · exact .inr (.inr ⟨running, .inr ⟨attached, .inr (.inl rfl)⟩⟩)
  | trig =>
    by_cases playing : s.aud.state = .playing
    · rcases sequencerStep_sameSampleCount_or s with same | ⟨running, attached⟩
      · exact .inl (.ite (fun _ => .accepted rfl) fun _ => .accepted same)
      · exact .inr (.inr ⟨running, .inr ⟨attached, .inr (.inr ⟨rfl, playing⟩)⟩⟩)
    · exact .inl (.ite (fun _ => .accepted rfl) (absurd playing))
  | audInit | audStart | audStop | audErr | dspInit | synStart | synStop =>
    exact .inl (.ite (fun _ => .rejected rfl) fun _ => .accepted rfl)
  | audFilled | audNeedsRefill | audGetFillHalf | audGetLbuf | audGetRbuf => exact .inl (.accepted rfl)
  | dspGetRender | dspSwap | dspHasFrame | dspGetXfer => exact .inl (.accepted rfl)
  | synRendered | synSkipped => exact .inl (.accepted rfl)
  | smpWrl | smpWrr | smpRdl | smpRdr | fbWr | fbRd | xferRd | dspDone =>
    exact .inl (.ite (fun _ => .accepted rfl) fun _ => .rejected rfl)
  | dspStartXfer =>
    exact .inl (.ite (fun _ => .accepted rfl) fun _ => .ite (fun _ => .accepted rfl) fun _ => .accepted rfl)
  | synDecide => exact .inl (.ite (fun _ => .accepted rfl) fun _ => .accepted rfl)
  | synAframe => exact .inl (.ite (fun _ => .rejected rfl) fun _ => .accepted rfl)
  | rdreg reg => exact .inl (execRdreg_leadsTo fun _ _ => rfl)

/-! ## Registers by number (R45, R250) -/

/-- The register numbers R45 lists. -/
abbrev ListedRegister (n : Nat) : Prop := n ≤ 0x04 ∨ (0x10 ≤ n ∧ n ≤ 0x13) ∨ (0x20 ≤ n ∧ n ≤ 0x2A)

/-- A register has a value exactly when its number is listed. -/
theorem registerValue_cases (reg : BitVec 8) (s : State) :
    (ListedRegister reg.toNat ∧ ∃ v, registerValue reg s = some v) ∨
      (¬ListedRegister reg.toNat ∧ registerValue reg s = none) := by
  unfold registerValue
  split
  case h_21 => exact .inr ⟨by grind, rfl⟩
  all_goals exact .inl ⟨by omega, _, rfl⟩

/-- What register number `n` reads as; 0 for an unlisted number. -/
def registerNat (s : State) (n : Nat) : Nat := ((registerValue (BitVec.ofNat 8 n) s).getD 0).toNat

theorem ofNat_registerNat {reg : BitVec 8} {s : State} {v : Word} (listed : registerValue reg s = some v) :
    BitVec.ofNat 32 (registerNat s reg.toNat) = v := by
  simp [registerNat, listed]

theorem execRdreg_of_listed {reg : BitVec 8} (s : State) (listed : ListedRegister reg.toNat) :
    exec (.rdreg reg) s = .next (s.answer .fg .ok (BitVec.ofNat 32 (registerNat s reg.toNat))) := by
  rcases registerValue_cases reg s with ⟨-, v, value⟩ | ⟨unlisted, -⟩
  · rw [ofNat_registerNat value]
    simp only [exec, execRdreg, value, returnOk]
  · exact absurd listed unlisted

theorem execRdreg_of_unlisted {reg : BitVec 8} (s : State) (unlisted : ¬ListedRegister reg.toNat) :
    exec (.rdreg reg) s = .next (s.answer .fg .invalidParam 0) := by
  rcases registerValue_cases reg s with ⟨listed, -⟩ | ⟨-, value⟩
  · exact absurd listed unlisted
  · simp only [exec, execRdreg, value, raise]

/-- A field below another: its value counts in units of the lower field's range. -/
theorem toNat_append_eq {n m : Nat} (x : BitVec n) (y : BitVec m) : (x ++ y).toNat = 2 ^ m * x.toNat + y.toNat := by
  rw [BitVec.toNat_append, ← Nat.shiftLeft_add_eq_or_of_lt y.isLt, Nat.shiftLeft_eq, Nat.mul_comm]

theorem slotCode_toNat (slot : Slot) : (slotCode slot).toNat = slot.val := by
  have bound := slot.isLt
  show slot.val % 4 = slot.val
  omega

theorem registerNat_audState (s : State) : registerNat s 0x00 = s.aud.state.code.toNat := by
  show (0#30 ++ s.aud.state.code).toNat = _
  rw [toNat_append_eq]
  simp

theorem registerNat_synState (s : State) : registerNat s 0x20 = s.syn.state.code.toNat := by
  show (0#30 ++ s.syn.state.code).toNat = _
  rw [toNat_append_eq]
  simp

theorem registerNat_audFlags (s : State) :
    registerNat s 0x01 = s.aud.needsRefill.toNat + 2 * s.aud.fillHalf.code.toNat + 4 * s.aud.syncAttached.toNat := by
  show (0#29 ++ BitVec.ofBool s.aud.syncAttached ++ s.aud.fillHalf.code ++ BitVec.ofBool s.aud.needsRefill).toNat = _
  simp only [toNat_append_eq, BitVec.toNat_ofBool, BitVec.toNat_ofNat]
  omega

theorem registerNat_dspRoles (s : State) :
    registerNat s 0x10 = s.dsp.render.val + 4 * s.dsp.ready.val + 16 * s.dsp.transfer.val := by
  show (0#26 ++ slotCode s.dsp.transfer ++ slotCode s.dsp.ready ++ slotCode s.dsp.render).toNat = _
  simp only [toNat_append_eq, slotCode_toNat, BitVec.toNat_ofNat]
  omega

theorem registerNat_dspBusy (s : State) : registerNat s 0x11 = s.dsp.transferBusy.toNat := by
  show (0#31 ++ BitVec.ofBool s.dsp.transferBusy).toNat = _
  rw [toNat_append_eq]
  simp

/-- RDREG's header is its opcode over the register number (R112, R118). -/
theorem encode_rdreg (reg : BitVec 8) : encode (.rdreg reg) = [BitVec.ofNat 32 (0x30000000 + reg.toNat)] := by
  have bound := reg.isLt
  have opcode : (0x30 : BitVec 8).toNat = 0x30 := rfl
  have header : formatI 0x30 (0#16 ++ reg) = BitVec.ofNat 32 (0x30000000 + reg.toNat) := by
    apply BitVec.eq_of_toNat_eq
    simp only [formatI, toNat_append_eq, BitVec.toNat_ofNat]
    omega
  exact congrArg (fun h => [h]) header

/-! ## The statements -/

/-- Settles O15: R50's table, unit by unit; nothing is listed in either memory. -/
theorem resetValues : Obligations.ResetValues := by
  refine ⟨rfl, rfl, rfl, rfl, rfl, rfl, rfl, rfl,
    rfl, rfl, rfl, rfl, rfl, rfl,
    rfl, rfl, rfl, rfl, rfl, rfl, rfl, rfl, rfl, rfl, rfl,
    fun _ => rfl, fun _ => rfl⟩

/-- Settles O17: the ports' streams are no part of what the invariants speak of, so they hold as in `State.reset`. -/
theorem startedStateMeetsTheInvariants : Obligations.StartedStateMeetsTheInvariants := by
  intro fg ev due
  have counters : State.reset.dsp.countersOk := by decide
  exact ⟨State.started_inv fg ev due, counters⟩

/-- Settles O18: a fetch keeps the invariants, and so does every operation and the rejection of an illegal command. -/
theorem everyStepKeepsTheInvariants : Obligations.EveryStepKeepsTheInvariants := by
  intro s t inv stepped
  exact (step_keeps_inv s inv).of_eq_next stepped

/-- Settles O19, by induction on the number of steps. -/
theorem everyRunFromResetKeepsTheInvariants : Obligations.EveryRunFromResetKeepsTheInvariants := by
  intro fg ev due n
  exact run_leadsTo step_keeps_inv n (State.started_inv fg ev due)

/-- Settles O54: an operation that is no writer of the sample count leads to a state with the same count. -/
theorem sampleCountMovesOnlyWhileRunning : Obligations.SampleCountMovesOnlyWhileRunning := by
  intro i s t ran moved
  rcases exec_sameSampleCount_or i s with same | writes
  · exact absurd (same.of_eq_next ran) moved
  · exact writes

/-- Settles O60: the layout is `registerNat`; the fields are read off one register at a time. -/
theorem registerReadsFollowTheLayout : Obligations.RegisterReadsFollowTheLayout := by
  intro s reg
  refine ⟨encode_rdreg reg ▸ decode_encode (.rdreg reg), registerNat s, ?audState, ?audFlags, rfl, rfl, rfl,
    registerNat_dspRoles s, registerNat_dspBusy s, rfl, rfl, ?synState, rfl, rfl, rfl, rfl, rfl, rfl, rfl, rfl, rfl, rfl,
    execRdreg_of_listed s, execRdreg_of_unlisted s⟩
  case audState => rw [registerNat_audState]; cases s.aud.state <;> rfl
  case audFlags => rw [registerNat_audFlags]; cases s.aud.fillHalf <;> rfl
  case synState => rw [registerNat_synState]; cases s.syn.state <;> rfl

end Sys2Proof.Machine
end

section
/-! PROOFS of the statements of spec/20_memory.md: words as bytes, the reads, and the foreground's refill of a half of
the sample memory. -/

namespace Sys2Proof

/-! ## Words as bytes (R88) -/

/-- The four bytes of a word, most significant on the left, are the word. -/
theorem bytes_append (w : Word) :
    w.extractLsb' 24 8 ++ w.extractLsb' 16 8 ++ w.extractLsb' 8 8 ++ w.extractLsb' 0 8 = w := by
  rw [BitVec.extractLsb'_append_extractLsb'_eq_extractLsb' (by decide),
    BitVec.extractLsb'_append_extractLsb'_eq_extractLsb' (by decide),
    BitVec.extractLsb'_append_extractLsb'_eq_extractLsb' (by decide)]
  exact BitVec.extractLsb'_eq_self

/-- Reading takes the first four bytes for a word and goes on with the rest. -/
theorem wordsOfBytes_wordBytes_append (w : Word) (bs : List Byte) :
    wordsOfBytes (wordBytes w ++ bs) = (w :: (wordsOfBytes bs).1, (wordsOfBytes bs).2) := by
  simp only [wordBytes, List.cons_append, List.nil_append, wordsOfBytes, bytes_append]

theorem wordsOfBytes_flatMap_wordBytes (ws : List Word) : wordsOfBytes (ws.flatMap wordBytes) = (ws, []) := by
  induction ws with
  | nil => rfl
  | cons w ws ih => rw [List.flatMap_cons, wordsOfBytes_wordBytes_append, ih]

theorem wordBytes_toNat (w : Word) :
    (wordBytes w).map BitVec.toNat =
      [w.toNat % 256, w.toNat / 256 % 256, w.toNat / 65536 % 256, w.toNat / 16777216 % 256] := by
  simp [wordBytes, BitVec.extractLsb'_toNat, Nat.shiftRight_eq_div_pow]

/-- Settles O9: the bytes are read back one word at a time. -/
theorem serialisedWordsReadBack : Obligations.SerialisedWordsReadBack :=
  ⟨wordsOfBytes_flatMap_wordBytes, wordBytes_toNat⟩

end Sys2Proof

namespace Sys2Proof.Machine

/-! ## The reads (R91) -/

/-- The instruction only answers, and what it answers is drawn from the registers and the memories of `s`: whatever
responses stand on record, it is the same. -/
def AnswersAlike (i : Instr) (s : State) : Prop :=
  ∃ st v, ∀ record : List Response,
    exec i { s with responses := record } = .next (({ s with responses := record } : State).answer i.port st v)

/-- An operation that answers alike answers in `s`, and again the same after its own response. -/
theorem AnswersAlike.twice {i : Instr} {s : State} (alike : AnswersAlike i s) :
    ∃ st v, exec i s = .next (s.answer i.port st v) ∧
      exec i (s.answer i.port st v) = .next ((s.answer i.port st v).answer i.port st v) := by
  obtain ⟨st, v, answers⟩ := alike
  exact ⟨st, v, answers s.responses, answers (s.answer i.port st v).responses⟩

section
variable (s : State)

theorem smpRdl_answersAlike (idx : BitVec 12) : AnswersAlike (.smpRdl idx) s :=
  ⟨.ok, zext32 (memRead s.smp (leftAddr idx)), fun _ => loadSample_eq idx (leftAddr idx) _⟩

theorem smpRdr_answersAlike (idx : BitVec 12) : AnswersAlike (.smpRdr idx) s :=
  ⟨.ok, zext32 (memRead s.smp (rightAddr idx)), fun _ => loadSample_eq idx (rightAddr idx) _⟩

theorem fbRd_answersAlike (addr : BitVec 12) : AnswersAlike (.fbRd addr) s := by
  by_cases inSpace : fbAddrInRange addr = true
  · exact ⟨.ok, zext32 (memRead s.fb addr.toNat), fun _ => if_pos inSpace⟩
  · exact ⟨.invalidParam, 0, fun _ => if_neg inSpace⟩

theorem xferRd_answersAlike (off : BitVec 10) : AnswersAlike (.xferRd off) s := by
  by_cases busy : s.dsp.transferBusy = true
  · exact ⟨.ok, zext32 (memRead s.fb (xferAddr s.dsp off)), fun _ => if_pos busy⟩
  · exact ⟨.badState, 0, fun _ => if_neg busy⟩

theorem synAframe_answersAlike : AnswersAlike .synAframe s := by
  by_cases noDivisor : s.syn.samplesPerFrame = 0
  · exact ⟨.badState, 0, fun _ => if_pos noDivisor⟩
  · exact ⟨.ok, audioFrameIndex s.syn, fun _ => if_neg noDivisor⟩

theorem rdreg_answersAlike (reg : BitVec 8) : AnswersAlike (.rdreg reg) s := by
  by_cases listed : ListedRegister reg.toNat
  · exact ⟨.ok, BitVec.ofNat 32 (registerNat s reg.toNat), fun _ => execRdreg_of_listed _ listed⟩
  · exact ⟨.invalidParam, 0, fun _ => execRdreg_of_unlisted _ listed⟩

/-- The reads: the accesses above, and the polls, which answer without a test. -/
theorem reads_answerAlike (idx addr : BitVec 12) (off : BitVec 10) (reg : BitVec 8) :
    ∀ i ∈ [Instr.smpRdl idx, .smpRdr idx, .fbRd addr, .xferRd off, .audNeedsRefill, .audGetFillHalf, .audGetLbuf,
        .audGetRbuf, .dspGetRender, .dspHasFrame, .dspGetXfer, .synAframe, .rdreg reg], AnswersAlike i s := by
  simp only [List.forall_mem_cons]
  exact ⟨smpRdl_answersAlike s idx, smpRdr_answersAlike s idx, fbRd_answersAlike s addr, xferRd_answersAlike s off,
    ⟨.ok, boolWord s.aud.needsRefill, fun _ => rfl⟩, ⟨.ok, zext32 s.aud.fillHalf.code, fun _ => rfl⟩,
    ⟨.ok, BitVec.ofNat 32 Config.leftBase, fun _ => rfl⟩, ⟨.ok, BitVec.ofNat 32 Config.rightBase, fun _ => rfl⟩,
    ⟨.ok, BitVec.ofNat 32 (slotBase s.dsp.render), fun _ => rfl⟩, ⟨.ok, boolWord s.dsp.hasFrame, fun _ => rfl⟩,
    ⟨.ok, BitVec.ofNat 32 (slotBase s.dsp.transfer), fun _ => rfl⟩,
    synAframe_answersAlike s, rdreg_answersAlike s reg, nofun⟩

end

/-! ## A store, the acknowledgement, and a read after a write -/

theorem exec_smpWrl (idx : BitVec 12) (val : Sample) (s : State) :
    exec (.smpWrl idx val) s = .next ((s.setSmp (memWrite s.smp (leftAddr idx) val)).answer .fg .ok 0) :=
  storeSample_eq idx (leftAddr idx) val s

theorem exec_smpWrr (idx : BitVec 12) (val : Sample) (s : State) :
    exec (.smpWrr idx val) s = .next ((s.setSmp (memWrite s.smp (rightAddr idx) val)).answer .fg .ok 0) :=
  storeSample_eq idx (rightAddr idx) val s

/-- The state after AUD_FILLED (R155). -/
def acknowledged (s : State) : State :=
  (s.setAud { s.aud with needsRefill := false, refillCount := s.aud.refillCount + 1 }).answer .fg .ok 0

theorem exec_audFilled (s : State) : exec .audFilled s = .next (acknowledged s) := rfl

/-- What any element reads after a write to a canonical memory. -/
theorem memRead_memWrite {w size : Nat} {m : Mem w} (canonical : memWf size m = true) (a b : Nat) (v : BitVec w) :
    memRead (memWrite m a v) b = if b = a then v else memRead m b := by
  split
  · subst b; exact memRead_memWrite_same canonical a v
  · exact memRead_memWrite_other m v ‹_›

/-! ## The fill of a part of both channels (R77, R124) -/

/-- `t` is `s` with the indices `[base, base + count)` of the two channels holding `l` and `r`, and every other sample
as it was; beside the sample memory only the record of responses may differ. -/
structure Filled (base count : Nat) (l r : Sample) (s t : State) : Prop where
  canonical : memWf Config.smpSize t.smp = true
  left : ∀ k < 4096, t.left k = if base ≤ k ∧ k < base + count then l else s.left k
  right : ∀ k < 4096, t.right k = if base ≤ k ∧ k < base + count then r else s.right k
  kept : t = { s with smp := t.smp, responses := t.responses }

theorem Filled.unchanged {base count : Nat} {l r : Sample} {s t : State} (filled : Filled base count l r s t) :
    t.aud = s.aud ∧ t.dsp = s.dsp ∧ t.syn = s.syn ∧ t.fb = s.fb ∧ t.dac = s.dac := by
  rw [filled.kept]
  exact ⟨rfl, rfl, rfl, rfl, rfl⟩

theorem Filled.zero (base : Nat) (l r : Sample) {s : State} (canonical : memWf Config.smpSize s.smp = true) :
    Filled base 0 l r s s := by
  refine ⟨canonical, fun k _ => ?_, fun k _ => ?_, rfl⟩ <;> rw [if_neg (by omega)]

/-- Two fills of neighbouring parts are one fill. -/
theorem Filled.trans {base m n : Nat} {l r : Sample} {s t u : State} (st : Filled base m l r s t)
    (tu : Filled (base + m) n l r t u) : Filled base (m + n) l r s u := by
  refine ⟨tu.canonical, fun k hk => ?_, fun k hk => ?_, tu.kept.trans (by rw [st.kept])⟩
  · rw [tu.left k hk, st.left k hk]; grind
  · rw [tu.right k hk, st.right k hk]; grind

theorem smpFill_succ (base n : Nat) (l r : Sample) :
    smpFill base (n + 1) l r =
      [.smpWrl (BitVec.ofNat 12 base) l, .smpWrr (BitVec.ofNat 12 base) r] ++ smpFill (base + 1) n l r := by
  rw [smpFill, List.range'_succ, List.flatMap_cons]
  rfl

/-- The sample memory after one store to each channel at an index. -/
def storedPair (idx : BitVec 12) (l r : Sample) (m : Mem 12) : Mem 12 :=
  memWrite (memWrite m (leftAddr idx) l) (rightAddr idx) r

theorem execAll_storePair (idx : BitVec 12) (l r : Sample) (s : State) :
    execAll [.smpWrl idx l, .smpWrr idx r] s =
      .next (((s.setSmp (storedPair idx l r s.smp)).answer .fg .ok 0).answer .fg .ok 0) := by
  rw [execAll_cons (exec_smpWrl idx l s), execAll_cons (exec_smpWrr idx r _)]
  rfl

/-- The two channels do not overlap, so that each of the two stores stands. -/
theorem memRead_storedPair {m : Mem 12} (canonical : memWf Config.smpSize m = true) (idx : BitVec 12) (l r : Sample)
    {k : Nat} (hk : k < 4096) :
    memRead (storedPair idx l r m) (Config.leftBase + k) =
        (if k = idx.toNat then l else memRead m (Config.leftBase + k)) ∧
      memRead (storedPair idx l r m) (Config.rightBase + k) =
        (if k = idx.toNat then r else memRead m (Config.rightBase + k)) := by
  have bound := idx.isLt
  have canonicalLeft := memWf_memWrite canonical l (leftAddr_lt idx)
  rw [storedPair, memRead_memWrite canonicalLeft, memRead_memWrite canonicalLeft, memRead_memWrite canonical,
    memRead_memWrite canonical]
  simp only [leftAddr, rightAddr, Config.leftBase, Config.rightBase]
  grind

/-- The pair of stores at one index fills that index. -/
theorem storedPair_filled {i : Nat} (inBuffer : i < 4096) (l r : Sample) {s : State}
    (canonical : memWf Config.smpSize s.smp = true) :
    Filled i 1 l r s
      (((s.setSmp (storedPair (BitVec.ofNat 12 i) l r s.smp)).answer .fg .ok 0).answer .fg .ok 0) := by
  have index : (BitVec.ofNat 12 i).toNat = i := Nat.mod_eq_of_lt inBuffer
  have there (k : Nat) : (i ≤ k ∧ k < i + 1) ↔ k = (BitVec.ofNat 12 i).toNat := by omega
  refine ⟨memWf_memWrite (memWf_memWrite canonical l (leftAddr_lt _)) r (rightAddr_lt _), fun k hk => ?_,
    fun k hk => ?_, rfl⟩
  · simp only [there]; exact (memRead_storedPair canonical _ l r hk).1
  · simp only [there]; exact (memRead_storedPair canonical _ l r hk).2

/-- SMP_FILL fills the part it names, as long as that lies in the buffers; by induction on the count, from the front. -/
theorem execAll_smpFill {base count : Nat} (inBuffer : base + count ≤ 4096) (l r : Sample) {s : State}
    (canonical : memWf Config.smpSize s.smp = true) :
    ∃ t, execAll (smpFill base count l r) s = .next t ∧ Filled base count l r s t := by
  induction count generalizing base s with
  | zero => exact ⟨s, rfl, Filled.zero base l r canonical⟩
  | succ n ih =>
    have stored := storedPair_filled (i := base) (by omega) l r canonical
    obtain ⟨t, ran, filled⟩ := ih (base := base + 1) (by omega) stored.canonical
    refine ⟨t, ?_, Nat.add_comm 1 n ▸ stored.trans filled⟩
    rw [smpFill_succ, execAll_append (execAll_storePair _ l r s), ran]

/-- A half is the `N` indices from its write offset (R72, R77). -/
theorem halfOfIndex_eq_iff (h : Half) {k : Nat} (hk : k < 4096) :
    halfOfIndex k = h ↔ halfOffset h ≤ k ∧ k < halfOffset h + Config.N := by
  by_cases low : k < Config.N
  · have half : halfOfIndex k = .first := if_pos low
    cases h <;> simp [half, halfOffset, low]
  · have half : halfOfIndex k = .second := if_neg low
    have high : Config.N ≤ k ∧ k < Config.N + Config.N := ⟨not_lt.1 low, hk⟩
    cases h <;> simp [half, halfOffset, low, high]

theorem halfOffset_add_N_le (h : Half) : halfOffset h + Config.N ≤ 4096 := by cases h <;> decide

/-- REFILL is the fill of the named half, and then the acknowledgement. -/
theorem execAll_refill (l r : Sample) {s : State} (canonical : memWf Config.smpSize s.smp = true) :
    ∃ t, execAll (refill s.aud.fillHalf l r) s = .next (acknowledged t) ∧
      Filled (halfOffset s.aud.fillHalf) Config.N l r s t := by
  have asked : exec .audGetFillHalf s = .next (s.answer .fg .ok (zext32 s.aud.fillHalf.code)) := rfl
  obtain ⟨t, ran, filled⟩ := execAll_smpFill (s := s.answer .fg .ok (zext32 s.aud.fillHalf.code))
    (halfOffset_add_N_le s.aud.fillHalf) l r canonical
  refine ⟨t, ?_, filled.canonical, filled.left, filled.right, filled.kept⟩
  rw [refill, List.cons_append, execAll_cons asked, execAll_append ran, execAll_cons (exec_audFilled t), execAll_nil]

/-! ## The statements -/

/-- Settles O24: each of the thirteen reads only answers, and alike whatever responses stand on record. -/
theorem readsChangeNoState : Obligations.ReadsChangeNoState := by
  intro idx addr off reg s i read
  exact (reads_answerAlike s idx addr off reg i read).twice

/-- Settles O39: the question changes nothing, the stores fill the named half, and the acknowledgement writes its two
registers. -/
theorem refillFillsTheNamedHalf : Obligations.RefillFillsTheNamedHalf := by
  intro s l r canonical
  obtain ⟨t, ran, filled⟩ := execAll_refill l r canonical
  obtain ⟨registers, display, sync, frames, output⟩ := filled.unchanged
  refine ⟨acknowledged t, ran, fun k hk => ?_, ?_, display, sync, frames, output⟩
  · simp only [halfOfIndex_eq_iff s.aud.fillHalf hk]
    exact ⟨filled.left k hk, filled.right k hk⟩
  · rw [acknowledged, registers]; rfl

end Sys2Proof.Machine
end

section
/-! PROOFS of the statements of spec/30_encoding.md: the decoder, the encoder and the opcode table agree. What the
decoder accepts is selected by a row of the table, and what a row selects is the encoding of an instruction of that row;
with `decode_encode`, the rest follows from these two. -/

namespace Sys2Proof

/-! ## A header that passes a row's mask is the row's format (R111 to R114, R118)

Where a mask is all ones the header has the bits of the pattern: the opcode, and zeros around the operands. -/

theorem field_of_masked {h mask pattern : Word} {start len : Nat} (passed : h &&& mask = pattern)
    (kept : mask.extractLsb' start len = BitVec.allOnes len) :
    h.extractLsb' start len = pattern.extractLsb' start len := by
  rw [← passed, BitVec.extractLsb'_and, kept, BitVec.and_allOnes]

theorem opcodeOf_of_masked {h mask : Word} {op : BitVec 8} (passed : h &&& mask = formatZ op)
    (kept : opcodeOf mask = BitVec.allOnes 8) : opcodeOf h = op :=
  (field_of_masked passed kept).trans (opcodeOf_formatZ op)

theorem field_eq_zero_of_masked {h mask : Word} {op : BitVec 8} {start len : Nat} (passed : h &&& mask = formatZ op)
    (kept : mask.extractLsb' start len = BitVec.allOnes len) (below : start + len ≤ 24) :
    h.extractLsb' start len = 0#len := by
  rw [field_of_masked passed kept, formatZ, BitVec.extractLsb'_append_eq_of_add_le below, BitVec.extractLsb'_zero]

/-- A row without operands fixes the whole header. -/
theorem eq_pattern_of_masked {h pattern : Word} (passed : h &&& 0xFFFFFFFF = pattern) : h = pattern :=
  BitVec.and_allOnes.symm.trans passed

/-- Two fields of a word that stand side by side are one. -/
theorem extractLsb'_eq_append {h : Word} (start lo : Nat) {hi : Nat} {x : BitVec hi}
    (upper : h.extractLsb' (start + lo) hi = x) :
    h.extractLsb' start (hi + lo) = x ++ h.extractLsb' start lo := by
  rw [← upper, BitVec.extractLsb'_append_extractLsb'_eq_extractLsb' rfl]

theorem extractLsb'_zero_one (h : Word) : h.extractLsb' 0 1 = BitVec.ofBool (h.getLsbD 0) := by
  ext i hi
  obtain rfl : i = 0 := by omega
  simp

/-- AUD_INIT: the flag stands in bit 0. -/
theorem eq_formatI_flag_of_masked {h : Word} {op : BitVec 8} (passed : h &&& 0xFFFFFFFE = formatZ op) :
    h = formatI op (0#23 ++ BitVec.ofBool (h.getLsbD 0)) := by
  have zeros : h.extractLsb' 1 23 = 0#23 := field_eq_zero_of_masked passed (by decide) (by decide)
  have imm : cntField h = 0#23 ++ h.extractLsb' 0 1 := extractLsb'_eq_append 0 1 zeros
  rw [← extractLsb'_zero_one, ← imm, ← opcodeOf_of_masked passed (by decide), formatI_fields]

/-- SYN_TICK: the count is the whole immediate. -/
theorem eq_formatI_count_of_masked {h : Word} {op : BitVec 8} (passed : h &&& 0xFF000000 = formatZ op) :
    h = formatI op (cntField h) := by
  rw [← opcodeOf_of_masked passed (by decide), formatI_fields]

/-- RDREG: the register number is the low byte. -/
theorem eq_formatI_register_of_masked {h : Word} {op : BitVec 8} (passed : h &&& 0xFFFFFF00 = formatZ op) :
    h = formatI op (0#16 ++ regField h) := by
  have zeros : h.extractLsb' 8 16 = 0#16 := field_eq_zero_of_masked passed (by decide) (by decide)
  have imm : cntField h = 0#16 ++ regField h := extractLsb'_eq_append 0 8 zeros
  rw [← imm, ← opcodeOf_of_masked passed (by decide), formatI_fields]

/-- SMP_WRL, SMP_WRR: an index and a value. -/
theorem eq_formatS_store_of_masked {h : Word} {op : BitVec 8} (passed : h &&& 0xFF000000 = formatZ op) :
    h = formatS op (idxField h) (valField h) := by
  rw [← opcodeOf_of_masked passed (by decide), formatS_fields]

/-- SMP_RDL, SMP_RDR: an index alone. -/
theorem eq_formatS_load_of_masked {h : Word} {op : BitVec 8} (passed : h &&& 0xFF000FFF = formatZ op) :
    h = formatS op (idxField h) 0 := by
  have val : valField h = 0 := field_eq_zero_of_masked passed (by decide) (by decide)
  rw [← opcodeOf_of_masked passed (by decide), ← val, formatS_fields]

/-- A header with zeros in `hdr[23:20]`, from its fields (R114). -/
theorem formatA_fields {h : Word} (zeros : h.extractLsb' 20 4 = 0#4) :
    formatA (opcodeOf h) (addrField h) (byteField h) = h := by
  unfold formatA opcodeOf addrField byteField
  rw [← zeros, BitVec.extractLsb'_append_extractLsb'_eq_extractLsb' (by decide),
    BitVec.extractLsb'_append_extractLsb'_eq_extractLsb' (by decide),
    BitVec.extractLsb'_append_extractLsb'_eq_extractLsb' (by decide)]
  exact BitVec.extractLsb'_eq_self

/-- FB_WR: an address and a byte. -/
theorem eq_formatA_store_of_masked {h : Word} {op : BitVec 8} (passed : h &&& 0xFFF00000 = formatZ op) :
    h = formatA op (addrField h) (byteField h) := by
  have zeros : h.extractLsb' 20 4 = 0#4 := field_eq_zero_of_masked passed (by decide) (by decide)
  rw [← opcodeOf_of_masked passed (by decide), formatA_fields zeros]

/-- FB_RD: an address alone. -/
theorem eq_formatA_load_of_masked {h : Word} {op : BitVec 8} (passed : h &&& 0xFFF000FF = formatZ op) :
    h = formatA op (addrField h) 0 := by
  have zeros : h.extractLsb' 20 4 = 0#4 := field_eq_zero_of_masked passed (by decide) (by decide)
  have byte : byteField h = 0 := field_eq_zero_of_masked passed (by decide) (by decide)
  rw [← opcodeOf_of_masked passed (by decide), ← byte, formatA_fields zeros]

/-- XFER_RD: an offset of ten bits in the place of an address. -/
theorem eq_formatA_offset_of_masked {h : Word} {op : BitVec 8} (passed : h &&& 0xFFFC00FF = formatZ op) :
    h = formatA op (0#2 ++ offField h) 0 := by
  have zeros : h.extractLsb' 20 4 = 0#4 := field_eq_zero_of_masked passed (by decide) (by decide)
  have above : h.extractLsb' 18 2 = 0#2 := field_eq_zero_of_masked passed (by decide) (by decide)
  have addr : addrField h = 0#2 ++ offField h := extractLsb'_eq_append 8 10 above
  have byte : byteField h = 0 := field_eq_zero_of_masked passed (by decide) (by decide)
  rw [← opcodeOf_of_masked passed (by decide), ← addr, ← byte, formatA_fields zeros]

/-! ## What a row selects is the encoding of an instruction of that row (R118) -/

/-- The words `h :: ops` encode an instruction of the row. -/
def Row.Encodes (r : Row) (h : Word) (ops : List Word) : Prop :=
  ∃ i : Instr, i.port = r.port ∧ i.mnemonic = r.mnemonic ∧ encode i = h :: ops

section
variable {h : Word} {ops : List Word}

/-- An instruction of one word: the length of the command leaves no operand words. -/
theorem Row.encodes_word {m : String} {p : Port} {pattern mask w : Word} (i : Instr) (port : i.port = p)
    (mnemonic : i.mnemonic = m) (word : encode i = [w]) (header : h = w) (whole : ops.length + 1 = commandLength p h) :
    Row.Encodes ⟨m, p, pattern, mask⟩ h ops := by
  subst header
  have one : 1 = commandLength p h := by
    obtain ⟨_, _, words, -, length⟩ := decode_eq_ok (decode_encode i)
    obtain ⟨rfl, rfl⟩ := List.cons_eq_cons.1 (word.symm.trans words)
    rwa [port] at length
  obtain rfl : ops = [] := List.length_eq_zero_iff.1 (by omega)
  exact ⟨i, port, mnemonic, word⟩

/-- An instruction without operands is its row's pattern. -/
theorem Row.encodes_pattern {m : String} {p : Port} {pattern : Word} (i : Instr) (port : i.port = p)
    (mnemonic : i.mnemonic = m) (word : encode i = [pattern]) (passed : h &&& 0xFFFFFFFF = pattern) :
    ops.length + 1 = commandLength p h → Row.Encodes ⟨m, p, pattern, 0xFFFFFFFF⟩ h ops :=
  Row.encodes_word i port mnemonic word (eq_pattern_of_masked passed)

theorem audRow_encodes :
    ∀ r ∈ audRows, h &&& r.mask = r.pattern → ops.length + 1 = commandLength r.port h → r.Encodes h ops := by
  simp only [audRows, List.forall_mem_cons]
  exact ⟨
    fun passed => Row.encodes_word (.audInit _) rfl rfl rfl (eq_formatI_flag_of_masked passed),
    Row.encodes_pattern .audStart rfl rfl rfl,
    Row.encodes_pattern .audStop rfl rfl rfl,
    Row.encodes_pattern .audNeedsRefill rfl rfl rfl,
    Row.encodes_pattern .audGetFillHalf rfl rfl rfl,
    Row.encodes_pattern .audFilled rfl rfl rfl,
    Row.encodes_pattern .audGetLbuf rfl rfl rfl,
    Row.encodes_pattern .audGetRbuf rfl rfl rfl,
    fun passed => Row.encodes_word (.smpWrl _ _) rfl rfl rfl (eq_formatS_store_of_masked passed),
    fun passed => Row.encodes_word (.smpWrr _ _) rfl rfl rfl (eq_formatS_store_of_masked passed),
    fun passed => Row.encodes_word (.smpRdl _) rfl rfl rfl (eq_formatS_load_of_masked passed),
    fun passed => Row.encodes_word (.smpRdr _) rfl rfl rfl (eq_formatS_load_of_masked passed),
    nofun⟩

theorem dspRow_encodes :
    ∀ r ∈ dspRows, h &&& r.mask = r.pattern → ops.length + 1 = commandLength r.port h → r.Encodes h ops := by
  simp only [dspRows, List.forall_mem_cons]
  exact ⟨
    Row.encodes_pattern .dspInit rfl rfl rfl,
    Row.encodes_pattern .dspGetRender rfl rfl rfl,
    Row.encodes_pattern .dspSwap rfl rfl rfl,
    Row.encodes_pattern .dspHasFrame rfl rfl rfl,
    Row.encodes_pattern .dspStartXfer rfl rfl rfl,
    Row.encodes_pattern .dspGetXfer rfl rfl rfl,
    fun passed => Row.encodes_word (.fbWr _ _) rfl rfl rfl (eq_formatA_store_of_masked passed),
    fun passed => Row.encodes_word (.fbRd _) rfl rfl rfl (eq_formatA_load_of_masked passed),
    nofun⟩

/-- The one row whose command has operand words (R115, R120). -/
theorem synInitRow_encodes (passed : h &&& 0xFFFFFFFF = 0x20000000) (whole : ops.length + 1 = commandLength .fg h) :
    Row.Encodes ⟨"SYN_INIT", .fg, 0x20000000, 0xFFFFFFFF⟩ h ops := by
  obtain rfl := eq_pattern_of_masked passed
  obtain ⟨w1, w2, w3, rfl⟩ := List.length_eq_three.1 (Nat.succ_injective whole : ops.length = 3)
  exact ⟨.synInit w1 w2 w3, rfl, rfl, rfl⟩

theorem synRow_encodes :
    ∀ r ∈ synRows, h &&& r.mask = r.pattern → ops.length + 1 = commandLength r.port h → r.Encodes h ops := by
  simp only [synRows, List.forall_mem_cons]
  exact ⟨
    synInitRow_encodes,
    Row.encodes_pattern .synStart rfl rfl rfl,
    Row.encodes_pattern .synStop rfl rfl rfl,
    Row.encodes_pattern .synDecide rfl rfl rfl,
    Row.encodes_pattern .synRendered rfl rfl rfl,
    Row.encodes_pattern .synSkipped rfl rfl rfl,
    Row.encodes_pattern .synAframe rfl rfl rfl,
    fun passed => Row.encodes_word (.rdreg _) rfl rfl rfl (eq_formatI_register_of_masked passed),
    nofun⟩

theorem evRow_encodes :
    ∀ r ∈ evRows, h &&& r.mask = r.pattern → ops.length + 1 = commandLength r.port h → r.Encodes h ops := by
  simp only [evRows, List.forall_mem_cons]
  exact ⟨
    Row.encodes_pattern .trig rfl rfl rfl,
    Row.encodes_pattern .audHt rfl rfl rfl,
    Row.encodes_pattern .audTc rfl rfl rfl,
    Row.encodes_pattern .audErr rfl rfl rfl,
    Row.encodes_pattern .dspDone rfl rfl rfl,
    fun passed => Row.encodes_word (.synTick _) rfl rfl rfl (eq_formatI_count_of_masked passed),
    fun passed => Row.encodes_word (.xferRd _) rfl rfl rfl (eq_formatA_offset_of_masked passed),
    nofun⟩

end

theorem Row.selects_iff {r : Row} {p : Port} {h : Word} :
    r.selects p h = true ↔ r.port = p ∧ h &&& r.mask = r.pattern := by
  simp [Row.selects]

/-- What a row selects is an encoding, and so it decodes to an instruction of the row. -/
theorem decode_of_selects {r : Row} {p : Port} {h : Word} {ops : List Word} (listed : r ∈ opcodeTable)
    (selects : r.selects p h = true) (whole : ops.length + 1 = commandLength p h) :
    ∃ i, i.port = p ∧ i.mnemonic = r.mnemonic ∧ encode i = h :: ops ∧ decode p (h :: ops) = .ok i := by
  obtain ⟨rfl, passed⟩ := Row.selects_iff.1 selects
  have encodes : r.Encodes h ops := by
    simp only [opcodeTable, List.mem_append] at listed
    obtain ((aud | dsp) | syn) | ev := listed
    · exact audRow_encodes r aud passed whole
    · exact dspRow_encodes r dsp passed whole
    · exact synRow_encodes r syn passed whole
    · exact evRow_encodes r ev passed whole
  obtain ⟨i, port, mnemonic, words⟩ := encodes
  exact ⟨i, port, mnemonic, words, port ▸ words ▸ decode_encode i⟩

/-! ## What the decoder accepts is selected by a row (R118) -/

theorem rowTest_of_not_masked {h pattern mask : Word} (i : Instr) (failed : h &&& mask ≠ pattern) :
    rowTest h pattern mask i = .error .nonzeroBits :=
  if_neg failed

/-- A branch of the decoder that accepts is a row of the table. -/
theorem selects_of_rowTest {p : Port} {h pattern mask : Word} {i j : Instr}
    (listed : ⟨j.mnemonic, p, pattern, mask⟩ ∈ opcodeTable) (legal : rowTest h pattern mask j = .ok i) :
    ∃ r ∈ opcodeTable, r.selects p h = true := by
  by_cases passed : h &&& mask = pattern
  · exact ⟨_, listed, Row.selects_iff.2 ⟨rfl, passed⟩⟩
  · rw [rowTest_of_not_masked j passed] at legal
    cases legal

theorem selects_of_decodeFg {h : Word} {ops : List Word} {i : Instr} (legal : decodeFg h ops = .ok i) :
    ∃ r ∈ opcodeTable, r.selects .fg h = true := by
  unfold decodeFg at legal
  split at legal
  case h_29 | h_30 => cases legal
  all_goals exact selects_of_rowTest (by dsimp only [Instr.mnemonic]; decide) legal

theorem selects_of_decodeEv {h : Word} {i : Instr} (legal : decodeEv h = .ok i) :
    ∃ r ∈ opcodeTable, r.selects .ev h = true := by
  unfold decodeEv at legal
  split at legal
  case h_8 => cases legal
  all_goals exact selects_of_rowTest (by dsimp only [Instr.mnemonic]; decide) legal

/-- A command of the FG class, of the length R120 gives it, goes to the rows of port FG. -/
theorem decode_fg_cons {h : Word} {ops : List Word} (cls : portClass h = .fg)
    (whole : ops.length + 1 = commandLength .fg h) : decode .fg (h :: ops) = decodeFg h ops := by
  simp [decode, cls, whole]

/-- A command of the EV class, of the length R120 gives it, goes to the rows of port EV. -/
theorem decode_ev_cons {h : Word} {ops : List Word} (cls : portClass h = .ev)
    (whole : ops.length + 1 = commandLength .ev h) : decode .ev (h :: ops) = decodeEv h := by
  simp [decode, cls, whole]

theorem selects_of_decode {p : Port} {h : Word} {ops : List Word} {i : Instr} (legal : decode p (h :: ops) = .ok i) :
    ∃ r ∈ opcodeTable, r.selects p h = true := by
  obtain ⟨_, _, words, cls, whole⟩ := decode_eq_ok legal
  obtain ⟨rfl, rfl⟩ := List.cons_eq_cons.1 words
  cases p with
  | fg => exact selects_of_decodeFg (decode_fg_cons cls whole ▸ legal)
  | ev => exact selects_of_decodeEv (decode_ev_cons cls whole ▸ legal)

/-- A legal command is the encoding of what it decodes to, and a row with that mnemonic selects its header. -/
theorem encode_of_decode {p : Port} {h : Word} {ops : List Word} {i : Instr} (legal : decode p (h :: ops) = .ok i) :
    i.port = p ∧ encode i = h :: ops ∧ ∃ r ∈ opcodeTable, r.selects p h = true ∧ r.mnemonic = i.mnemonic := by
  obtain ⟨r, listed, selects⟩ := selects_of_decode legal
  obtain ⟨_, _, words, -, whole⟩ := decode_eq_ok legal
  obtain ⟨rfl, rfl⟩ := List.cons_eq_cons.1 words
  obtain ⟨j, port, mnemonic, words, decoded⟩ := decode_of_selects listed selects whole
  obtain rfl : j = i := Except.ok.inj (decoded.symm.trans legal)
  exact ⟨port, words, r, listed, selects, mnemonic.symm⟩

/-! ## The statements on the decoder -/

/-- Settles O1: the decoder reads every encoding back, so also those of the well-formed instructions. -/
theorem encodedInstructionDecodesBack : Obligations.EncodedInstructionDecodesBack :=
  fun i _ => decode_encode i

/-- Settles O2: a legal command has a header, and a row selects it. -/
theorem decodedWordsAreTheEncoding : Obligations.DecodedWordsAreTheEncoding := by
  intro p ws i legal
  obtain ⟨h, ops, rfl, -, -⟩ := decode_eq_ok legal
  obtain ⟨port, words, -⟩ := encode_of_decode legal
  exact ⟨port, words⟩

theorem opcodeTable_mnemonics_nodup : (opcodeTable.map Row.mnemonic).Nodup := by decide

/-- No two rows of a port select the same header: it decodes to one instruction, which names its row. -/
theorem row_unique {p : Port} {h : Word} {r₁ r₂ : Row} (listed₁ : r₁ ∈ opcodeTable) (listed₂ : r₂ ∈ opcodeTable)
    (selects₁ : r₁.selects p h = true) (selects₂ : r₂.selects p h = true) : r₁ = r₂ := by
  have whole : (List.replicate (commandLength p h - 1) (0 : Word)).length + 1 = commandLength p h := by
    rw [List.length_replicate, Nat.sub_add_cancel (commandLength_pos p h)]
  obtain ⟨i, -, mnemonic₁, -, decoded₁⟩ := decode_of_selects listed₁ selects₁ whole
  obtain ⟨j, -, mnemonic₂, -, decoded₂⟩ := decode_of_selects listed₂ selects₂ whole
  obtain rfl : i = j := Except.ok.inj (decoded₁.symm.trans decoded₂)
  exact List.inj_on_of_nodup_map opcodeTable_mnemonics_nodup listed₁ listed₂ (mnemonic₁.symm.trans mnemonic₂)

/-- Settles O3: decoding and selection imply each other, and the two counts are read off the table. -/
theorem decoderFollowsTheOpcodeTable : Obligations.DecoderFollowsTheOpcodeTable := by
  refine ⟨fun p h ops whole => ⟨fun i legal => ?_, fun r listed selects => ?_⟩,
    fun p h r₁ listed₁ r₂ listed₂ => row_unique listed₁ listed₂, by decide, by decide⟩
  · obtain ⟨-, -, row⟩ := encode_of_decode legal
    exact row
  · obtain ⟨i, -, mnemonic, -, decoded⟩ := decode_of_selects listed selects whole
    exact ⟨i, decoded, mnemonic⟩

/-! ## The length of a command (R120) -/

theorem commandLength_synInit {h : Word} (synInit : opcodeOf h = 0x20) : commandLength .fg h = 4 := if_pos synInit

theorem commandLength_fg_word {h : Word} (notSynInit : opcodeOf h ≠ 0x20) : commandLength .fg h = 1 :=
  if_neg notSynInit

theorem decodeFg_synInit {h : Word} (w1 w2 w3 : Word) (synInit : opcodeOf h = 0x20) :
    decodeFg h [w1, w2, w3] = rowTest h 0x20000000 0xFFFFFFFF (.synInit w1 w2 w3) := by
  unfold decodeFg
  rw [synInit]
  rfl

/-- An illegal header with SYN_INIT's opcode is rejected together with its three words. -/
theorem decode_synInit_nonzeroBits {h : Word} (w1 w2 w3 : Word) (synInit : opcodeOf h = 0x20)
    (illegal : h ≠ 0x20000000) : decode .fg [h, w1, w2, w3] = .error .nonzeroBits := by
  have cls : portClass h = .fg := by rw [portClass_of_opcode, synInit]; rfl
  rw [decode_fg_cons (ops := [w1, w2, w3]) cls (commandLength_synInit synInit).symm, decodeFg_synInit w1 w2 w3 synInit]
  exact rowTest_of_not_masked _ fun passed => illegal (eq_pattern_of_masked passed)

/-- Settles O8: the stream's first command has the length its opcode gives it. -/
theorem commandLengthIsDecidedByTheOpcode : Obligations.CommandLengthIsDecidedByTheOpcode :=
  ⟨fun _ w1 w2 w3 rest synInit =>
      ⟨takeCommand_append (ops := [w1, w2, w3]) rest (commandLength_synInit synInit).symm,
        decode_synInit_nonzeroBits w1 w2 w3 synInit⟩,
    fun _ rest notSynInit => takeCommand_append (ops := []) rest (commandLength_fg_word notSynInit).symm,
    fun _ rest => takeCommand_append (ops := []) rest rfl⟩

/-- Settles O5: the legal words are the encodings of their instructions; the two illegal ones are computed. -/
theorem publishedWordsDecode : Obligations.PublishedWordsDecode :=
  ⟨decode_encode (.audInit true), decode_encode (.smpWrl 5 0x123), decode_encode (.fbWr 0x405 0xFF),
    decode_encode (.synInit 32000 30 0), decode_encode (.rdreg 0x2A), decode_encode (.synTick 2048),
    decode_encode (.xferRd 1023), rfl, rfl⟩

end Sys2Proof

namespace Sys2Proof.Machine

/-! ## A command whose header no row selects (R119, R264) -/

theorem decode_error_of_not_selected {p : Port} {h : Word} (ops : List Word)
    (unselected : ∀ r ∈ opcodeTable, r.selects p h = false) : ∃ e, decode p (h :: ops) = .error e := by
  cases decoded : decode p (h :: ops) with
  | error e => exact ⟨e, rfl⟩
  | ok i =>
    obtain ⟨r, listed, selects⟩ := selects_of_decode decoded
    exact absurd selects (Bool.eq_false_iff.1 (unselected r listed))

/-- Settles O4: what is not selected does not decode, and the step rejects it; what is selected decodes, and the step
performs it. -/
theorem illegalCommandIsRejected : Obligations.IllegalCommandIsRejected := by
  intro s s' p h ops fetched
  obtain ⟨⟨_, _, words, whole⟩, portsOnly⟩ := fetch_command fetched
  obtain ⟨rfl, rfl⟩ := List.cons_eq_cons.1 words
  refine ⟨portsOnly, fun unselected => ?_, fun r listed selects => ?_⟩
  · obtain ⟨e, illegal⟩ := decode_error_of_not_selected ops unselected
    exact step_of_fetch_illegal fetched illegal
  · obtain ⟨i, -, mnemonic, -, decoded⟩ := decode_of_selects listed selects whole
    exact ⟨i, mnemonic, step_of_fetch_command fetched decoded⟩

end Sys2Proof.Machine
end

section
/-! PROOFS of the statements of spec/40_audio.md: the lifecycle of the AUD unit, its registers and polls, the accesses to
the sample memory, the audio events, and what one trigger and one half-buffer of triggers do. -/

namespace Sys2Proof

/-! ## Sample accesses as header words (R113) -/

theorem formatS_eq_word (op : BitVec 8) (idx val : BitVec 12) :
    formatS op idx val = BitVec.ofNat 32 (op.toNat * 2 ^ 24 + 2 ^ 12 * idx.toNat + val.toNat) := by
  rw [formatS_eq_ofNat, Nat.mul_comm idx.toNat]

/-- The mask of a load clears the index and keeps the value field. -/
theorem formatS_mask_index (op : BitVec 8) (idx val : BitVec 12) :
    formatS op idx val &&& 0xFF000FFF = formatS op 0#12 val := by
  have h := formatS_and op (BitVec.allOnes 8) idx 0#12 val (BitVec.allOnes 12)
  rwa [BitVec.and_allOnes, BitVec.and_zero, BitVec.and_allOnes] at h

/-- A header of Format S with a bit of the value field set does not pass the mask of a load. -/
theorem formatS_not_masked_load {op : BitVec 8} (idx : BitVec 12) {val : BitVec 12} (bits : val ≠ 0) :
    formatS op idx val &&& 0xFF000FFF ≠ formatS op 0#12 0#12 := by
  rw [formatS_mask_index]
  intro same
  have fields := congrArg valField same
  rw [valField_formatS, valField_formatS] at fields
  exact bits fields

theorem decodeFg_smpRdl_bits (idx : BitVec 12) {val : BitVec 12} (bits : val ≠ 0) :
    decodeFg (formatS 0x0B idx val) [] = .error .nonzeroBits := by
  simpa [decodeFg, opcodeOf_formatS, idxField_formatS] using
    rowTest_of_not_masked (pattern := 0x0B000000) (.smpRdl idx) (formatS_not_masked_load (op := 0x0B) idx bits)

theorem decodeFg_smpRdr_bits (idx : BitVec 12) {val : BitVec 12} (bits : val ≠ 0) :
    decodeFg (formatS 0x0C idx val) [] = .error .nonzeroBits := by
  simpa [decodeFg, opcodeOf_formatS, idxField_formatS] using
    rowTest_of_not_masked (pattern := 0x0C000000) (.smpRdr idx) (formatS_not_masked_load (op := 0x0C) idx bits)

theorem decode_smpRdl (idx val : BitVec 12) :
    decode .fg [formatS 0x0B idx val] = if val = 0 then .ok (.smpRdl idx) else .error .nonzeroBits := by
  split
  · subst val; exact decode_encode (.smpRdl idx)
  · exact (decode_fg_word (opcodeOf_formatS _ _ _) (by decide)).trans (decodeFg_smpRdl_bits idx ‹_›)

theorem decode_smpRdr (idx val : BitVec 12) :
    decode .fg [formatS 0x0C idx val] = if val = 0 then .ok (.smpRdr idx) else .error .nonzeroBits := by
  split
  · subst val; exact decode_encode (.smpRdr idx)
  · exact (decode_fg_word (opcodeOf_formatS _ _ _) (by decide)).trans (decodeFg_smpRdr_bits idx ‹_›)

end Sys2Proof

namespace Sys2Proof.Machine

/-! ## What the operations with a test answer (R150, R151, R152, R166) -/

section
variable {s : State}

theorem exec_audInit_of_reset (attach : Bool) (reset : s.aud.state = .reset) :
    exec (.audInit attach) s = .next
      (((s.setSmp (memFill Config.smpSize Config.silence)).setAud (Aud.initialised attach)).answer .fg .ok 0) :=
  if_neg (not_not.2 reset)

theorem exec_audInit_rejected (attach : Bool) (notReset : s.aud.state ≠ .reset) :
    exec (.audInit attach) s = .next (s.answer .fg .badState 0) :=
  if_pos notReset

theorem exec_audStart_of_ready (ready : s.aud.state = .ready) :
    exec .audStart s = .next ((s.setAud { s.aud with pos := 0, state := .playing }).answer .fg .ok 0) :=
  if_neg (not_not.2 ready)

theorem exec_audStart_rejected (notReady : s.aud.state ≠ .ready) :
    exec .audStart s = .next (s.answer .fg .badState 0) :=
  if_pos notReady

theorem exec_audStop_of_playing (playing : s.aud.state = .playing) :
    exec .audStop s = .next ((s.setAud { s.aud with state := .ready }).answer .fg .ok 0) :=
  if_neg (not_not.2 playing)

theorem exec_audStop_rejected (notPlaying : s.aud.state ≠ .playing) :
    exec .audStop s = .next (s.answer .fg .badState 0) :=
  if_pos notPlaying

theorem exec_audErr_of_playing (playing : s.aud.state = .playing) :
    exec .audErr s = .next ((s.setAud { s.aud with state := .error }).answer .ev .ok 0) :=
  if_neg (not_not.2 playing)

theorem exec_audErr_rejected (notPlaying : s.aud.state ≠ .playing) :
    exec .audErr s = .next (s.answer .ev .badState 0) :=
  if_pos notPlaying

end

/-! ## The polls (R153, R154) -/

theorem exec_audNeedsRefill (s : State) :
    exec .audNeedsRefill s = .next (s.answer .fg .ok (boolWord s.aud.needsRefill)) := rfl

theorem exec_audGetFillHalf (s : State) :
    exec .audGetFillHalf s = .next (s.answer .fg .ok (zext32 s.aud.fillHalf.code)) := rfl

/-! ## The audio event as one update (R162) -/

theorem Aud.afterEvent_eq (a : Aud) (h : Half) :
    a.afterEvent h = { a with
      fillHalf := h, needsRefill := true, samplesPlayed := a.samplesPlayed + 2048,
      underrunCount := if a.needsRefill then a.underrunCount + 1 else a.underrunCount } := by
  unfold Aud.afterEvent Aud.countUnderrun
  split <;> rfl

/-- The synchroniser's sample count after an audio event: the tick is forwarded when a synchroniser is attached, and
counted when it is RUNNING (R162, R223). -/
def forwardedCount (s : State) : Word :=
  if s.aud.syncAttached = true ∧ s.syn.state = .running then s.syn.audioSamplesPlayed + 2048
  else s.syn.audioSamplesPlayed

theorem forwardedSyn_eq (s : State) :
    (if s.aud.syncAttached then tickedSyn tickOfHalf s.syn else s.syn) =
      { s.syn with audioSamplesPlayed := forwardedCount s } := by
  by_cases attached : s.aud.syncAttached = true
  · by_cases running : s.syn.state = .running
    · rw [if_pos attached, tickedSyn, if_pos running, forwardedCount, if_pos ⟨attached, running⟩]; rfl
    · rw [if_pos attached, tickedSyn, if_neg running, forwardedCount, if_neg fun both => running both.2]
  · rw [if_neg attached, forwardedCount, if_neg fun both => attached both.1]

/-- Everything an audio event writes, in one update. -/
theorem audEvent_eq_update (h : Half) (s : State) :
    audEvent h s = { s with
      aud := { s.aud with
        fillHalf := h, needsRefill := true, samplesPlayed := s.aud.samplesPlayed + 2048,
        underrunCount := if s.aud.needsRefill then s.aud.underrunCount + 1 else s.aud.underrunCount },
      syn := { s.syn with audioSamplesPlayed := forwardedCount s } } := by
  rw [audEvent_eq, Aud.afterEvent_eq, forwardedSyn_eq]
  rfl

/-! ## The lifecycles under the audio events -/

/-- The two states are at the same place of both lifecycles. -/
def SameLifecycles (s t : State) : Prop := t.aud.state = s.aud.state ∧ t.syn.state = s.syn.state

theorem audEvent_sameLifecycles (h : Half) (s : State) : SameLifecycles s (audEvent h s) := by
  rw [audEvent_eq_update]
  exact ⟨rfl, rfl⟩

theorem sequencerStep_sameLifecycles (s : State) : SameLifecycles s (sequencerStep s) := by
  rw [sequencerStep_eq]
  rcases raiseAtPosition_cases (movedOn s) with ⟨-, half⟩ | ⟨-, wrap⟩ | ⟨-, -, none⟩
  · rw [half]; exact audEvent_sameLifecycles .first (movedOn s)
  · rw [wrap]; exact audEvent_sameLifecycles .second (movedOn s)
  · rw [none]; exact ⟨rfl, rfl⟩

/-! ## The terminal states (R300) -/

/-- ERROR and STOPPED stay where they are from `s` to `t`. -/
def KeepsTerminal (s t : State) : Prop :=
  (s.aud.state = .error → t.aud.state = .error) ∧ (s.syn.state = .stopped → t.syn.state = .stopped)

namespace KeepsTerminal

variable {s t : State}

theorem of_sameLifecycles (same : SameLifecycles s t) : KeepsTerminal s t := by
  obtain ⟨aud, syn⟩ := same
  exact ⟨aud.trans, syn.trans⟩

/-- A transition of the AUD unit that starts elsewhere than in ERROR. -/
theorem of_audTransition {st : AudState} (was : s.aud.state = st) (live : st ≠ .error)
    (syn : t.syn.state = s.syn.state) : KeepsTerminal s t :=
  ⟨fun error => absurd (was.symm.trans error) live, syn.trans⟩

/-- A transition of the synchroniser that starts elsewhere than in STOPPED. -/
theorem of_synTransition {st : SynState} (was : s.syn.state = st) (live : st ≠ .stopped)
    (aud : t.aud.state = s.aud.state) : KeepsTerminal s t :=
  ⟨aud.trans, fun stopped => absurd (was.symm.trans stopped) live⟩

/-- An outcome that writes neither lifecycle register. -/
theorem answered {p : Port} {st : Status} {v : Word} (same : SameLifecycles s t) :
    KeepsTerminal s (t.answer p st v) := of_sameLifecycles same

end KeepsTerminal

theorem exec_keepsTerminal (i : Instr) (s : State) : LeadsTo (KeepsTerminal s) (exec i s) := by
  have same : SameLifecycles s s := ⟨rfl, rfl⟩
  cases i with
  | audInit attach =>
    exact .ite (fun _ => .rejected (.answered same)) fun reset =>
      .accepted (.of_audTransition (not_not.1 reset) nofun rfl)
  | audStart =>
    exact .ite (fun _ => .rejected (.answered same)) fun ready =>
      .accepted (.of_audTransition (not_not.1 ready) nofun rfl)
  | audStop | audErr =>
    exact .ite (fun _ => .rejected (.answered same)) fun playing =>
      .accepted (.of_audTransition (not_not.1 playing) nofun rfl)
  | synInit rate fps maxDrift =>
    exact .ite (fun _ => .rejected (.answered same)) fun reset => .ite (fun _ => .rejected (.answered same)) fun _ =>
      .ite (fun _ => .rejected (.answered same)) fun _ =>
        .accepted (.of_synTransition (not_not.1 reset) nofun rfl)
  | synStart =>
    exact .ite (fun _ => .rejected (.answered same)) fun ready =>
      .accepted (.of_synTransition (not_not.1 ready) nofun rfl)
  | synStop =>
    exact .ite (fun _ => .rejected (.answered same)) fun running =>
      .accepted (.of_synTransition (not_not.1 running) nofun rfl)
  | audHt => exact .accepted (.answered (audEvent_sameLifecycles .first s))
  | audTc => exact .accepted (.answered (audEvent_sameLifecycles .second s))
  | trig =>
    exact .ite (fun _ => .accepted (.answered same)) fun _ => .accepted (.answered (sequencerStep_sameLifecycles s))
  | synTick cnt =>
    have ticked : SameLifecycles s (synTick cnt s) := by
      rw [synTick_eq]; exact ⟨rfl, tickedSyn_state cnt s.syn⟩
    exact .accepted (.answered ticked)
  | audFilled | audNeedsRefill | audGetFillHalf | audGetLbuf | audGetRbuf => exact .accepted (.answered same)
  | dspGetRender | dspSwap | dspHasFrame | dspGetXfer => exact .accepted (.answered same)
  | synRendered | synSkipped => exact .accepted (.answered same)
  | smpWrl | smpWrr | smpRdl | smpRdr | fbWr | fbRd | xferRd | dspDone =>
    exact .ite (fun _ => .accepted (.answered same)) fun _ => .rejected (.answered same)
  | dspInit | synAframe => exact .ite (fun _ => .rejected (.answered same)) fun _ => .accepted (.answered same)
  | dspStartXfer =>
    exact .ite (fun _ => .accepted (.answered same)) fun _ =>
      .ite (fun _ => .accepted (.answered same)) fun _ => .accepted (.answered same)
  | synDecide => exact .ite (fun _ => .accepted (.answered same)) fun _ => .accepted (.answered same)
  | rdreg reg => exact execRdreg_leadsTo fun _ _ => .answered same

/-- Every step but a reset keeps the terminal states: a quiet one changes only what is due, and a command runs on the
registers as they are. -/
theorem step_keepsTerminal {s : State} (noReset : ∀ rest, s.due ≠ .reset :: rest) :
    LeadsTo (KeepsTerminal s) (step s) := by
  have same : SameLifecycles s s := ⟨rfl, rfl⟩
  cases fetched : fetch s with
  | quiet t =>
    refine ⟨t, step_of_fetch_quiet fetched, .of_sameLifecycles ?_⟩
    rcases fetch_quiet fetched with ⟨-, rfl⟩ | ⟨rest, reset, -⟩ | ⟨_, _, _, _, -, rfl⟩
    · exact same
    · exact absurd reset (noReset rest)
    · exact same
  | command p ws t =>
    obtain ⟨-, fgIn, evIn, due, rfl⟩ := fetch_command fetched
    cases decoded : decode p ws with
    | ok i => rw [step_of_fetch_command fetched decoded]; exact exec_keepsTerminal i _
    | error e => rw [step_of_fetch_illegal fetched decoded]; exact .rejected (.answered same)

/-! ## The operations that are always accepted (R167) -/

/-- The instruction is accepted, and `aud.state` is as it was. -/
def AcceptedInPlace (i : Instr) (s : State) : Prop :=
  ∃ t r, exec i s = .next t ∧ t.responses = s.responses ++ [r] ∧ r.status = .ok ∧ t.aud.state = s.aud.state

theorem AcceptedInPlace.of_returnOk {i : Instr} {s t : State} {p : Port} {v : Word} (ran : exec i s = returnOk p v t)
    (ports : SamePorts s t) (aud : t.aud.state = s.aud.state) : AcceptedInPlace i s := by
  obtain ⟨-, -, -, responses⟩ := ports
  exact ⟨t.answer p .ok v, ⟨p, .ok, v⟩, ran, by rw [State.answer_responses, responses], rfl, aud⟩

/-- An operation that answers and does nothing else. -/
theorem AcceptedInPlace.of_answered {i : Instr} {s : State} {p : Port} {v : Word} (ran : exec i s = returnOk p v s) :
    AcceptedInPlace i s := .of_returnOk ran (SamePorts.refl s) rfl

theorem trig_acceptedInPlace (s : State) : AcceptedInPlace .trig s := by
  by_cases playing : s.aud.state = .playing
  · exact .of_returnOk (if_neg (not_not.2 playing)) (sequencerStep_samePorts s) (sequencerStep_sameLifecycles s).1
  · exact .of_answered (if_pos playing)

theorem audOperations_acceptedInPlace (s : State) (idx : BitVec 12) (val : Sample) :
    ∀ i ∈ [Instr.audNeedsRefill, .audGetFillHalf, .audFilled, .audGetLbuf, .audGetRbuf, .smpWrl idx val,
      .smpWrr idx val, .smpRdl idx, .smpRdr idx, .trig, .audHt, .audTc], AcceptedInPlace i s := by
  simp only [List.forall_mem_cons]
  exact ⟨.of_answered rfl, .of_answered rfl, .of_returnOk rfl (setAud_samePorts _ _) rfl, .of_answered rfl,
    .of_answered rfl, .of_returnOk (exec_smpWrl idx val s) (setSmp_samePorts _ _) rfl,
    .of_returnOk (exec_smpWrr idx val s) (setSmp_samePorts _ _) rfl, .of_answered (loadSample_eq idx (leftAddr idx) s),
    .of_answered (loadSample_eq idx (rightAddr idx) s), trig_acceptedInPlace s,
    .of_returnOk rfl (audEvent_samePorts .first s) (audEvent_sameLifecycles .first s).1,
    .of_returnOk rfl (audEvent_samePorts .second s) (audEvent_sameLifecycles .second s).1, nofun⟩

/-! ## A write to the sample memory (R158, R159) -/

/-- A write to a canonical memory of `size` elements leaves the element `a` holding `v`, every other element as it was,
and the canonical form. -/
theorem memWrite_writes_one {w size : Nat} {m : Mem w} (canonical : memWf size m = true) {a : Nat} (inSpace : a < size)
    (v : BitVec w) :
    memRead (memWrite m a v) a = v ∧ (∀ b, b ≠ a → memRead (memWrite m a v) b = memRead m b) ∧
      memWf size (memWrite m a v) = true :=
  ⟨memRead_memWrite_same canonical a v, fun _ other => memRead_memWrite_other m v other,
    memWf_memWrite canonical v inSpace⟩

theorem zext32_toNat {w : Nat} (narrow : w ≤ 32) (v : BitVec w) : (zext32 v).toNat = v.toNat := by
  rw [zext32, BitVec.toNat_setWidth]
  exact Nat.mod_eq_of_lt (v.isLt.trans_le (Nat.pow_le_pow_right (by decide) narrow))

/-! ## Triggers of one half (R163) -/

/-- From `s` to `t` the pairs at the positions `[base, base + k)` were delivered in order, and no event was raised:
beside the DAC output, only the position and the record of responses differ. -/
structure Delivered (base k : Nat) (s t : State) : Prop where
  aud : t.aud = { s.aud with pos := BitVec.ofNat 12 (base + k) }
  dac : t.dac = s.dac ++ (List.range k).map fun j => ⟨s.left (base + j), s.right (base + j)⟩
  kept : t = { s with aud := t.aud, dac := t.dac, responses := t.responses }

namespace Delivered

variable {base k : Nat} {s t : State}

theorem unchanged (delivered : Delivered base k s t) :
    t.syn = s.syn ∧ t.dsp = s.dsp ∧ t.smp = s.smp ∧ t.fb = s.fb := by
  rw [delivered.kept]
  exact ⟨rfl, rfl, rfl, rfl⟩

theorem pos_toNat (delivered : Delivered base k s t) (inBuffer : base + k < 4096) : t.aud.pos.toNat = base + k := by
  rw [delivered.aud]
  exact Nat.mod_eq_of_lt inBuffer

theorem zero (start : s.aud.pos.toNat = base) : Delivered base 0 s s := by
  have here : BitVec.ofNat 12 (base + 0) = s.aud.pos := by
    rw [Nat.add_zero, ← start, BitVec.ofNat_toNat, BitVec.setWidth_eq]
  refine ⟨?_, by simp, rfl⟩
  rw [here]

/-- The sequencer's next pair. -/
theorem succ (delivered : Delivered base k s t) (inBuffer : base + k < 4096) :
    Delivered base (k + 1) s (movedOn t) := by
  have pos := delivered.pos_toNat inBuffer
  obtain ⟨-, -, smp, -⟩ := delivered.unchanged
  have next : nextPos t.aud.pos = BitVec.ofNat 12 (base + (k + 1)) := by
    apply BitVec.eq_of_toNat_eq
    rw [nextPos_toNat, pos, BitVec.toNat_ofNat, Nat.add_assoc]
  refine ⟨?_, ?_, ?_⟩
  · show { t.aud with pos := nextPos t.aud.pos } = _
    rw [next, delivered.aud]
  · show t.dac ++ [⟨t.left t.aud.pos.toNat, t.right t.aud.pos.toNat⟩] = _
    rw [pos, delivered.dac, List.range_succ, List.map_append, List.append_assoc, State.left, State.right, smp]
    rfl
  · rw [movedOn, delivered.kept]
    rfl

end Delivered

/-- Before the last position of the half a trigger raises no event; by induction on the number of triggers. -/
theorem execAll_trigN {h : Half} {s : State} (playing : s.aud.state = .playing)
    (start : s.aud.pos.toNat = halfOffset h) {k : Nat} (inHalf : k < 2048) :
    ∃ t, execAll (trigN k) s = .next t ∧ Delivered (halfOffset h) k s t := by
  have offset : halfOffset h = 0 ∨ halfOffset h = 2048 := by cases h <;> decide
  induction k with
  | zero => exact ⟨s, rfl, .zero start⟩
  | succ k ih =>
    obtain ⟨t, ran, delivered⟩ := ih (by omega)
    have pos := delivered.pos_toNat (by omega)
    have moved := delivered.succ (by omega)
    have stillPlaying : t.aud.state = .playing := by rw [delivered.aud]; exact playing
    refine ⟨(movedOn t).answer .ev .ok 0, ?_, moved.aud, moved.dac, ?_⟩
    · rw [trigN_succ, execAll_append ran]
      rcases execTrig_cases t with ⟨idle, -⟩ | ⟨-, mid, -⟩ | ⟨-, last, -⟩ | ⟨-, -, -, quiet⟩
      · exact absurd stillPlaying idle
      · omega
      · omega
      · exact execAll_cons quiet
    · rw [moved.kept]; rfl

/-- The last trigger of the half delivers the last pair and raises the half's event. -/
theorem execAll_trigN_half {h : Half} {s : State} (playing : s.aud.state = .playing)
    (start : s.aud.pos.toNat = halfOffset h) :
    ∃ t, execAll (trigN 2048) s = .next ((audEvent h t).answer .ev .ok 0) ∧ Delivered (halfOffset h) 2048 s t := by
  obtain ⟨t, ran, delivered⟩ := execAll_trigN playing start (k := 2047) (by decide)
  have inBuffer : halfOffset h + 2047 < 4096 := by cases h <;> decide
  have pos := delivered.pos_toNat inBuffer
  have stillPlaying : t.aud.state = .playing := by rw [delivered.aud]; exact playing
  refine ⟨movedOn t, ?_, delivered.succ inBuffer⟩
  rw [trigN_succ, execAll_append ran]
  rcases execTrig_cases t with ⟨idle, -⟩ | ⟨-, mid, half⟩ | ⟨-, last, wrap⟩ | ⟨-, notMid, notLast, -⟩
  · exact absurd stillPlaying idle
  · cases h with
    | first => exact execAll_cons half
    | second => exact absurd (pos.symm.trans mid) (by decide)
  · cases h with
    | first => exact absurd (pos.symm.trans last) (by decide)
    | second => exact execAll_cons wrap
  · cases h with
    | first => exact absurd pos notMid
    | second => exact absurd pos notLast

/-! ## The named half and the playing half (R170) -/

theorem audEvent_namedHalfFree {h : Half} {s : State} (other : h ≠ s.playingHalf) : (audEvent h s).namedHalfFree := by
  rw [audEvent_eq_update]
  exact other

theorem movedOn_playingHalf (s : State) :
    (movedOn s).playingHalf = halfOfIndex ((s.aud.pos.toNat + 1) % 4096) :=
  congrArg halfOfIndex (nextPos_toNat s.aud.pos)

/-- Away from the last position of a half the sequencer stays in its half. -/
theorem movedOn_playingHalf_of_inside {s : State} (notMid : s.aud.pos.toNat ≠ 2047) (notLast : s.aud.pos.toNat ≠ 4095) :
    (movedOn s).playingHalf = s.playingHalf := by
  have bound := s.aud.pos.isLt
  have inside : s.aud.pos.toNat + 1 < Config.N ↔ s.aud.pos.toNat < Config.N := by rw [Config.N]; omega
  rw [movedOn_playingHalf, Nat.mod_eq_of_lt (by omega)]
  simp only [State.playingHalf, halfOfIndex, inside]

/-- A trigger keeps a free named half free, and one at the last position of a half makes it free. -/
theorem trig_namedHalfFree {s : State} (free : s.namedHalfFree ∨ s.aud.pos.toNat = 2047 ∨ s.aud.pos.toNat = 4095)
    (playing : s.aud.state = .playing) : LeadsTo State.namedHalfFree (exec .trig s) := by
  rcases execTrig_cases s with ⟨idle, -⟩ | ⟨-, mid, half⟩ | ⟨-, last, wrap⟩ | ⟨-, notMid, notLast, quiet⟩
  · exact absurd playing idle
  · have other : Half.first ≠ (movedOn s).playingHalf := by rw [movedOn_playingHalf, mid]; decide
    exact ⟨_, half, audEvent_namedHalfFree other⟩
  · have other : Half.second ≠ (movedOn s).playingHalf := by rw [movedOn_playingHalf, last]; decide
    exact ⟨_, wrap, audEvent_namedHalfFree other⟩
  · refine ⟨_, quiet, ?_⟩
    have before : s.namedHalfFree := by
      rcases free with free | mid | last
      · exact free
      · exact absurd mid notMid
      · exact absurd last notLast
    show s.aud.fillHalf ≠ (movedOn s).playingHalf
    rw [movedOn_playingHalf_of_inside notMid notLast]
    exact before

/-- The store is allowed, runs, keeps the position, and leaves every sample of the playing half as it was. -/
def MissesPlayingHalf (i : Instr) (s : State) : Prop :=
  s.ownershipAllows i = true ∧ ∃ t, exec i s = .next t ∧ t.playingHalf = s.playingHalf ∧
    ∀ k < 4096, halfOfIndex k = s.playingHalf → t.left k = s.left k ∧ t.right k = s.right k

section
variable {s : State} {idx : BitVec 12}

theorem smpWrl_missesPlayingHalf (val : Sample) (elsewhere : halfOfIndex idx.toNat ≠ s.playingHalf) :
    MissesPlayingHalf (.smpWrl idx val) s := by
  refine ⟨decide_eq_true fun _ => elsewhere, _, exec_smpWrl idx val s, rfl, fun k _ playing => ?_⟩
  have apart : k ≠ idx.toNat := fun same => elsewhere (same ▸ playing)
  have bound := idx.isLt
  have left : Config.leftBase + k ≠ leftAddr idx := fun same => apart (Nat.add_left_cancel same)
  have right : Config.rightBase + k ≠ leftAddr idx := by
    simp only [leftAddr, Config.leftBase, Config.rightBase]; omega
  exact ⟨memRead_memWrite_other s.smp val left, memRead_memWrite_other s.smp val right⟩

theorem smpWrr_missesPlayingHalf (val : Sample) (elsewhere : halfOfIndex idx.toNat ≠ s.playingHalf) :
    MissesPlayingHalf (.smpWrr idx val) s := by
  refine ⟨decide_eq_true fun _ => elsewhere, _, exec_smpWrr idx val s, rfl, fun k inBuffer playing => ?_⟩
  have apart : k ≠ idx.toNat := fun same => elsewhere (same ▸ playing)
  have left : Config.leftBase + k ≠ rightAddr idx := by
    simp only [rightAddr, Config.leftBase, Config.rightBase]; omega
  have right : Config.rightBase + k ≠ rightAddr idx := fun same => apart (Nat.add_left_cancel same)
  exact ⟨memRead_memWrite_other s.smp val left, memRead_memWrite_other s.smp val right⟩

end

/-! ## The statements -/

/-- Settles O20: every operation keeps the terminal states, so every step but a reset does. -/
theorem terminalStatesAreLeftOnlyByReset : Obligations.TerminalStatesAreLeftOnlyByReset := by
  intro s t ran noReset
  exact (step_keepsTerminal noReset).of_eq_next ran

/-- Settles O28: the four transitions and their rejections, and the twelve operations without a transition. -/
theorem audLifecycle : Obligations.AudLifecycle := by
  intro s b idx val
  exact ⟨fun reset => ⟨_, exec_audInit_of_reset b reset, rfl⟩, fun ready => ⟨_, exec_audStart_of_ready ready, rfl⟩,
    fun playing => ⟨_, exec_audStop_of_playing playing, rfl⟩, fun playing => ⟨_, exec_audErr_of_playing playing, rfl⟩,
    exec_audInit_rejected b, exec_audStart_rejected, exec_audStop_rejected, exec_audErr_rejected,
    audOperations_acceptedInPlace s idx val⟩

/-- Settles O29: the memory is the fill of the whole sample memory with silence. -/
theorem audInitFillsBothBuffersWithSilence : Obligations.AudInitFillsBothBuffersWithSilence := by
  refine ⟨decode_encode (.audInit false), decode_encode (.audInit true), fun s b => ⟨fun reset => ?_,
    exec_audInit_rejected b⟩⟩
  have ran := exec_audInit_of_reset b reset
  have filled := memRead_memFill Config.smpSize Config.silence
  have canonical := memWf_memFill Config.smpSize Config.silence
  generalize memFill Config.smpSize Config.silence = m at ran filled canonical
  exact ⟨m, ran, fun a inSpace => (filled a).trans (if_pos inSpace), canonical⟩

/-- Settles O30: the effect of each of the three operations, and its rejection. -/
theorem audStartStopAndErr : Obligations.AudStartStopAndErr :=
  ⟨decode_encode .audStart, decode_encode .audStop, decode_encode .audErr, fun _ =>
    ⟨exec_audStart_of_ready, exec_audStart_rejected, exec_audStop_of_playing, exec_audStop_rejected,
      exec_audErr_of_playing, exec_audErr_rejected⟩⟩

/-- Settles O31: a poll answers the code of its register, or the base it names. -/
theorem audPolls : Obligations.AudPolls := by
  refine ⟨decode_encode .audNeedsRefill, decode_encode .audGetFillHalf, decode_encode .audGetLbuf,
    decode_encode .audGetRbuf, fun s => ⟨fun idle => ?_, fun pending => ?_, fun first => ?_, fun second => ?_, rfl, rfl⟩⟩
  · rw [exec_audNeedsRefill, idle]; rfl
  · rw [exec_audNeedsRefill, pending]; rfl
  · rw [exec_audGetFillHalf, first]; rfl
  · rw [exec_audGetFillHalf, second]; rfl

/-- Settles O32: the acknowledgement's two writes, the count modulo 2^32. -/
theorem audFilledAcknowledges : Obligations.AudFilledAcknowledges :=
  ⟨decode_encode .audFilled, fun s => ⟨s.aud.refillCount + 1, BitVec.toNat_add _ _, exec_audFilled s⟩⟩

/-- Settles O33: each store is one write to the canonical sample memory, at an address inside it. -/
theorem sampleStoresWriteOneElement : Obligations.SampleStoresWriteOneElement := by
  intro s idx val canonical
  refine ⟨?_, ?_, Nat.zero_add _, rfl,
    ⟨_, exec_smpWrl idx val s, memWrite_writes_one canonical (leftAddr_lt idx) val⟩,
    ⟨_, exec_smpWrr idx val s, memWrite_writes_one canonical (rightAddr_lt idx) val⟩⟩
  · exact formatS_eq_word 0x09 idx val ▸ decode_encode (.smpWrl idx val)
  · exact formatS_eq_word 0x0A idx val ▸ decode_encode (.smpWrr idx val)

/-- Settles O34: a load answers the zero-extended element, and its row's mask refuses a value field. -/
theorem sampleLoadsReadOneElement : Obligations.SampleLoadsReadOneElement := by
  intro s idx val
  exact ⟨zext32 (s.left idx.toNat), zext32 (s.right idx.toNat),
    formatS_eq_word 0x0B idx val ▸ decode_smpRdl idx val, formatS_eq_word 0x0C idx val ▸ decode_smpRdr idx val,
    zext32_toNat (by decide) _, zext32_toNat (by decide) _,
    loadSample_eq idx (leftAddr idx) s, loadSample_eq idx (rightAddr idx) s⟩

/-- Settles O35: both events are one update each, with the counts modulo 2^32. -/
theorem audioEventsRequestARefill : Obligations.AudioEventsRequestARefill := by
  refine ⟨decode_encode .audHt, decode_encode .audTc, fun s e event => ?_⟩
  have ran : exec e.1 s = .next ((audEvent e.2 s).answer .ev .ok 0) := by
    revert e
    simp only [List.forall_mem_cons]
    exact ⟨rfl, rfl, nofun⟩
  rw [audEvent_eq_update] at ran
  refine ⟨s.aud.samplesPlayed + 2048, if s.aud.needsRefill then s.aud.underrunCount + 1 else s.aud.underrunCount,
    forwardedCount s, BitVec.toNat_add s.aud.samplesPlayed 2048, ?_, ?_, ran⟩
  · split
    · exact BitVec.toNat_add _ _
    · exact (Nat.mod_eq_of_lt (BitVec.isLt _)).symm
  · unfold forwardedCount
    split
    · exact BitVec.toNat_add _ _
    · exact (Nat.mod_eq_of_lt (BitVec.isLt _)).symm

/-- Settles O36: everything TRIG can do, with the event at the two positions performed on the state moved on. -/
theorem triggerDeliversOnePair : Obligations.TriggerDeliversOnePair := by
  refine ⟨decode_encode .trig, fun s => ?_⟩
  rcases execTrig_cases s with ⟨idle, ran⟩ | ⟨playing, mid, ran⟩ | ⟨playing, last, ran⟩ | ⟨playing, notMid, notLast, ran⟩
  · exact ⟨fun _ => ran, fun playing => absurd playing idle⟩
  all_goals refine ⟨absurd playing, fun _ => ⟨nextPos s.aud.pos, nextPos_toNat s.aud.pos, ?_⟩⟩
  · exact ⟨fun _ => ran, fun last => by omega, fun notMid => absurd mid notMid⟩
  · exact ⟨fun mid => by omega, fun _ => ran, fun _ notLast => absurd last notLast⟩
  · exact ⟨fun mid => absurd mid notMid, fun last => absurd last notLast, fun _ _ => ran⟩

/-- Settles O37: the pairs are delivered one by one without an event, and the last one raises the half's event. -/
theorem halfBufferOfTriggers : Obligations.HalfBufferOfTriggers := by
  intro s e listed playing start
  have offset : e.1 = halfOffset e.2 := by
    revert e
    simp only [List.forall_mem_cons]
    exact ⟨fun _ => rfl, fun _ => rfl, nofun⟩
  rw [offset] at start ⊢
  refine ⟨fun k inHalf => ?_, ?_⟩
  · obtain ⟨t, ran, delivered⟩ := execAll_trigN playing start inHalf
    obtain ⟨syn, -⟩ := delivered.unchanged
    exact ⟨t, ran, delivered.aud, syn⟩
  · obtain ⟨t, ran, delivered⟩ := execAll_trigN_half playing start
    obtain ⟨syn, dsp, smp, fb⟩ := delivered.unchanged
    refine ⟨_, ran, ?_⟩
    rw [audEvent_eq_update, forwardedCount, delivered.aud, syn]
    exact ⟨delivered.dac, playing, BitVec.toNat_ofNat _ _, rfl, rfl, rfl, rfl, rfl, rfl, rfl, dsp, smp, fb⟩

/-- Settles O38: a trigger moves the playing half only together with its event, and a store into a half other than the
playing one misses it. -/
theorem triggersKeepTheNamedHalfFree : Obligations.TriggersKeepTheNamedHalfFree := by
  refine ⟨fun s t playing ran free => (trig_namedHalfFree free playing).of_eq_next ran, fun s idx val free named => ?_⟩
  have elsewhere : halfOfIndex idx.toNat ≠ s.playingHalf := named ▸ free
  simp only [List.forall_mem_cons]
  exact ⟨smpWrl_missesPlayingHalf val elsewhere, smpWrr_missesPlayingHalf val elsewhere, nofun⟩

end Sys2Proof.Machine
end

section
/-! PROOFS of the statements of spec/41_display.md: the accesses to the framebuffer memory, everything an operation can
do to the display's registers, the invariants of R200, and the life of a frame from its drawing to its transfer. -/

namespace Sys2Proof

/-! ## Framebuffer accesses as header words (R114) -/

theorem formatA_eq_word (op : BitVec 8) (addr : BitVec 12) (byte : BitVec 8) :
    formatA op addr byte = BitVec.ofNat 32 (op.toNat * 2 ^ 24 + 2 ^ 8 * addr.toNat + byte.toNat) := by
  rw [formatA_eq_ofNat, Nat.mul_comm addr.toNat]

/-- An offset of ten bits stands in the place of an address. -/
theorem formatA_offset_eq_word (op : BitVec 8) (off : BitVec 10) :
    formatA op (0#2 ++ off) 0#8 = BitVec.ofNat 32 (op.toNat * 2 ^ 24 + 2 ^ 8 * off.toNat) := by
  have addr : (0#2 ++ off).toNat = off.toNat := by
    rw [BitVec.toNat_append, BitVec.toNat_ofNat, Nat.zero_mod, Nat.zero_shiftLeft, Nat.zero_or]
  rw [formatA_eq_word, BitVec.toNat_ofNat, Nat.zero_mod, Nat.add_zero]
  exact congrArg (fun a => BitVec.ofNat 32 (op.toNat * 2 ^ 24 + 2 ^ 8 * a)) addr

/-- The mask of a load clears the address and keeps the byte field. -/
theorem formatA_mask_address (op : BitVec 8) (addr : BitVec 12) (byte : BitVec 8) :
    formatA op addr byte &&& 0xFFF000FF = formatA op 0#12 byte := by
  have h := formatA_and op (BitVec.allOnes 8) 0xF#4 addr 0#12 byte (BitVec.allOnes 8)
  rwa [BitVec.and_allOnes, BitVec.and_zero, BitVec.and_allOnes] at h

/-- A header of Format A with a bit of the byte field set does not pass the mask of a load. -/
theorem formatA_not_masked_load {op : BitVec 8} (addr : BitVec 12) {byte : BitVec 8} (bits : byte ≠ 0) :
    formatA op addr byte &&& 0xFFF000FF ≠ formatA op 0#12 0#8 := by
  rw [formatA_mask_address]
  intro same
  have fields := congrArg byteField same
  rw [byteField_formatA, byteField_formatA] at fields
  exact bits fields

theorem decodeFg_fbRd_bits (addr : BitVec 12) {byte : BitVec 8} (bits : byte ≠ 0) :
    decodeFg (formatA 0x17 addr byte) [] = .error .nonzeroBits := by
  simpa [decodeFg, opcodeOf_formatA, addrField_formatA] using
    rowTest_of_not_masked (pattern := 0x17000000) (.fbRd addr) (formatA_not_masked_load (op := 0x17) addr bits)

theorem decode_fbRd (addr : BitVec 12) (byte : BitVec 8) :
    decode .fg [formatA 0x17 addr byte] = if byte = 0 then .ok (.fbRd addr) else .error .nonzeroBits := by
  split
  · subst byte; exact decode_encode (.fbRd addr)
  · exact (decode_fg_word (opcodeOf_formatA _ _ _) (by decide)).trans (decodeFg_fbRd_bits addr ‹_›)

end Sys2Proof

namespace Sys2Proof.Machine

/-! ## The updates of the display's registers -/

/-- The registers after DSP_SWAP (R192). -/
def Dsp.queued (d : Dsp) : Dsp := { d.swapRenderReady with framesRendered := d.framesRendered + 1 }

/-- The registers after a DSP_START_XFER that answers 1 (R194). -/
def Dsp.started (d : Dsp) : Dsp := d.swapReadyTransfer.setBusy

/-- The registers after an accepted DSP_DONE (R199). -/
def Dsp.completed (d : Dsp) : Dsp := { d.clearBusy with framesTransferred := d.framesTransferred + 1 }

/-- An accepted DSP_INIT leaves the registers as reset does (R50, R190). -/
theorem Dsp.initialised_of_idle {d : Dsp} (idle : d.transferBusy = false) : d.initialised = Dsp.atReset := by
  rw [Dsp.initialised, idle]
  rfl

theorem Dsp.queued_framesRendered_toNat {d : Dsp} (noWrap : d.framesRendered.toNat + 1 < 2 ^ 32) :
    d.queued.framesRendered.toNat = d.framesRendered.toNat + 1 :=
  (BitVec.toNat_add _ _).trans (Nat.mod_eq_of_lt noWrap)

/-- Before a wrap a swap leaves a frame waiting (R193). -/
theorem Dsp.queued_waiting {d : Dsp} (counted : d.framesTransferred.toNat ≤ d.framesRendered.toNat)
    (noWrap : d.framesRendered.toNat + 1 < 2 ^ 32) :
    d.queued.framesTransferred.toNat < d.queued.framesRendered.toNat := by
  rw [queued_framesRendered_toNat noWrap]
  exact Nat.lt_succ_of_le counted

/-- A transfer for a frame not yet counted as transferred does not wrap the count. -/
theorem Dsp.completed_framesTransferred_toNat {d : Dsp}
    (waiting : d.framesTransferred.toNat < d.framesRendered.toNat) :
    d.completed.framesTransferred.toNat = d.framesTransferred.toNat + 1 :=
  (BitVec.toNat_add _ _).trans (Nat.mod_eq_of_lt (Nat.lt_of_le_of_lt waiting d.framesRendered.isLt))

/-! ## What the operations answer (R190 to R199) -/

section
variable {s : State}

theorem exec_dspInit_rejected (busy : s.dsp.transferBusy = true) :
    exec .dspInit s = .next (s.answer .fg .badState 0) :=
  if_pos busy

theorem exec_dspInit_of_idle (idle : s.dsp.transferBusy = false) :
    exec .dspInit s = .next ((s.setDsp Dsp.atReset).answer .fg .ok 0) := by
  rw [← Dsp.initialised_of_idle idle]
  exact if_neg (ne_true_of_eq_false idle)

theorem exec_dspGetRender (s : State) :
    exec .dspGetRender s = .next (s.answer .fg .ok (BitVec.ofNat 32 (slotBase s.dsp.render))) := rfl

theorem exec_dspGetXfer (s : State) :
    exec .dspGetXfer s = .next (s.answer .fg .ok (BitVec.ofNat 32 (slotBase s.dsp.transfer))) := rfl

theorem exec_dspHasFrame (s : State) :
    exec .dspHasFrame s = .next (s.answer .fg .ok (boolWord s.dsp.hasFrame)) := rfl

theorem exec_dspSwap (s : State) : exec .dspSwap s = .next ((s.setDsp s.dsp.queued).answer .fg .ok 0) := rfl

theorem Dsp.hasFrame_of_waiting {d : Dsp} (waiting : d.framesTransferred.toNat < d.framesRendered.toNat) :
    d.hasFrame = true :=
  decide_eq_true waiting

theorem Dsp.hasFrame_of_not_waiting {d : Dsp} (none : ¬d.framesTransferred.toNat < d.framesRendered.toNat) :
    d.hasFrame = false :=
  decide_eq_false none

theorem exec_dspHasFrame_of_waiting (waiting : s.dsp.framesTransferred.toNat < s.dsp.framesRendered.toNat) :
    exec .dspHasFrame s = .next (s.answer .fg .ok 1) := by
  rw [exec_dspHasFrame, Dsp.hasFrame_of_waiting waiting]
  rfl

theorem exec_dspHasFrame_of_not_waiting (none : ¬s.dsp.framesTransferred.toNat < s.dsp.framesRendered.toNat) :
    exec .dspHasFrame s = .next (s.answer .fg .ok 0) := by
  rw [exec_dspHasFrame, Dsp.hasFrame_of_not_waiting none]
  rfl

theorem exec_dspStartXfer_of_waiting (idle : s.dsp.transferBusy = false)
    (waiting : s.dsp.framesTransferred.toNat < s.dsp.framesRendered.toNat) :
    exec .dspStartXfer s = .next ((s.setDsp s.dsp.started).answer .fg .ok 1) := by
  have hasFrame := Dsp.hasFrame_of_waiting waiting
  exact (if_neg (ne_true_of_eq_false idle)).trans (if_neg (by rw [hasFrame]; decide))

theorem exec_dspStartXfer_of_refused
    (refused : s.dsp.transferBusy = true ∨ ¬s.dsp.framesTransferred.toNat < s.dsp.framesRendered.toNat) :
    exec .dspStartXfer s = .next (s.answer .fg .ok 0) := by
  by_cases busy : s.dsp.transferBusy = true
  · exact if_pos busy
  · have hasFrame := Dsp.hasFrame_of_not_waiting (refused.resolve_left busy)
    exact (if_neg busy).trans (if_pos (by rw [hasFrame]; decide))

theorem exec_fbWr_of_inSpace {addr : BitVec 12} (byte : Byte) (inSpace : addr.toNat < 3072) :
    exec (.fbWr addr byte) s = .next ((s.setFb (memWrite s.fb addr.toNat byte)).answer .fg .ok 0) :=
  if_pos ((fbAddrInRange_iff addr).2 inSpace)

theorem exec_fbWr_rejected {addr : BitVec 12} (byte : Byte) (beyond : ¬addr.toNat < 3072) :
    exec (.fbWr addr byte) s = .next (s.answer .fg .invalidParam 0) :=
  if_neg (beyond ∘ (fbAddrInRange_iff addr).1)

theorem exec_fbRd_of_inSpace {addr : BitVec 12} (inSpace : addr.toNat < 3072) :
    exec (.fbRd addr) s = .next (s.answer .fg .ok (zext32 (memRead s.fb addr.toNat))) :=
  if_pos ((fbAddrInRange_iff addr).2 inSpace)

theorem exec_fbRd_rejected {addr : BitVec 12} (beyond : ¬addr.toNat < 3072) :
    exec (.fbRd addr) s = .next (s.answer .fg .invalidParam 0) :=
  if_neg (beyond ∘ (fbAddrInRange_iff addr).1)

theorem exec_xferRd_of_busy (off : BitVec 10) (busy : s.dsp.transferBusy = true) :
    exec (.xferRd off) s = .next (s.answer .ev .ok (zext32 (s.frameByte s.dsp.transfer off.toNat))) :=
  if_pos busy

theorem exec_xferRd_rejected (off : BitVec 10) (idle : s.dsp.transferBusy = false) :
    exec (.xferRd off) s = .next (s.answer .ev .badState 0) :=
  if_neg (ne_true_of_eq_false idle)

theorem exec_dspDone_of_busy (busy : s.dsp.transferBusy = true) :
    exec .dspDone s = .next ((s.setDsp s.dsp.completed).answer .ev .ok 0) :=
  if_pos busy

theorem exec_dspDone_rejected (idle : s.dsp.transferBusy = false) :
    exec .dspDone s = .next (s.answer .ev .badState 0) :=
  if_neg (ne_true_of_eq_false idle)

end

/-- The base address of a slot fits a response (R191, R195). -/
theorem slotBase_word_toNat (slot : Slot) : (BitVec.ofNat 32 (slotBase slot)).toNat = 1024 * slot.val := by
  have bound : 1024 * slot.val < 2 ^ 32 := by omega
  exact Nat.mod_eq_of_lt bound

/-! ## Everything an operation can do to the display's registers -/

/-- One move of the display's registers, under what the operation has tested. -/
inductive Dsp.Move (d : Dsp) : Dsp → Prop
  /-- Any other operation, a rejection, a poll, or a start that answers 0. -/
  | kept : Move d d
  /-- DSP_INIT (R190). -/
  | initialised (idle : d.transferBusy = false) : Move d d.initialised
  /-- DSP_SWAP (R192). -/
  | queued : Move d d.queued
  /-- DSP_START_XFER (R194). -/
  | started (idle : d.transferBusy = false) (waiting : d.framesTransferred.toNat < d.framesRendered.toNat) :
      Move d d.started
  /-- DSP_DONE (R199). -/
  | completed (busy : d.transferBusy = true) : Move d d.completed

/-- From `s` to `t` the display's registers made one move. -/
def MovesDisplay (s t : State) : Prop := s.dsp.Move t.dsp

theorem MovesDisplay.of_same {s t : State} (same : t.dsp = s.dsp) : MovesDisplay s t := by
  rw [MovesDisplay, same]
  exact .kept

theorem synTick_dsp (cnt : BitVec 24) (s : State) : (synTick cnt s).dsp = s.dsp := by
  rw [synTick_eq]
  rfl

theorem audEvent_dsp (h : Half) (s : State) : (audEvent h s).dsp = s.dsp := by
  rw [audEvent_eq]
  rfl

theorem sequencerStep_dsp (s : State) : (sequencerStep s).dsp = s.dsp := by
  rw [sequencerStep_eq]
  rcases raiseAtPosition_cases (movedOn s) with ⟨-, half⟩ | ⟨-, wrap⟩ | ⟨-, -, none⟩
  · rw [half]; exact audEvent_dsp .first (movedOn s)
  · rw [wrap]; exact audEvent_dsp .second (movedOn s)
  · rw [none]; rfl

theorem dspStartXfer_movesDisplay (s : State) : LeadsTo (MovesDisplay s) (exec .dspStartXfer s) := by
  by_cases busy : s.dsp.transferBusy = true
  · exact ⟨_, exec_dspStartXfer_of_refused (.inl busy), .kept⟩
  · have idle := eq_false_of_ne_true busy
    by_cases waiting : s.dsp.framesTransferred.toNat < s.dsp.framesRendered.toNat
    · exact ⟨_, exec_dspStartXfer_of_waiting idle waiting, .started idle waiting⟩
    · exact ⟨_, exec_dspStartXfer_of_refused (.inr waiting), .kept⟩

/-- Every operation makes one move of the display's registers. -/
theorem exec_movesDisplay (i : Instr) (s : State) : LeadsTo (MovesDisplay s) (exec i s) := by
  cases i with
  | dspInit =>
    exact .ite (fun _ => .rejected .kept) fun notBusy => .accepted (.initialised (eq_false_of_ne_true notBusy))
  | dspSwap => exact .accepted .queued
  | dspStartXfer => exact dspStartXfer_movesDisplay s
  | dspDone => exact .ite (fun busy => .accepted (.completed busy)) fun _ => .rejected .kept
  | audHt => exact .accepted (.of_same (audEvent_dsp .first s))
  | audTc => exact .accepted (.of_same (audEvent_dsp .second s))
  | trig => exact .ite (fun _ => .accepted .kept) fun _ => .accepted (.of_same (sequencerStep_dsp s))
  | synTick cnt => exact .accepted (.of_same (synTick_dsp cnt s))
  | dspGetRender | dspHasFrame | dspGetXfer => exact .accepted .kept
  | audFilled | audNeedsRefill | audGetFillHalf | audGetLbuf | audGetRbuf => exact .accepted .kept
  | synRendered | synSkipped => exact .accepted .kept
  | audInit =>
    refine .ite (fun _ => .rejected .kept) fun _ => .accepted (.of_same ?_)
    rw [State.answer_dsp, State.setAud_dsp, State.setSmp_dsp]
  | audStart | audStop | audErr | synStart | synStop | synAframe =>
    exact .ite (fun _ => .rejected .kept) fun _ => .accepted .kept
  | smpWrl | smpWrr | smpRdl | smpRdr | fbWr | fbRd | xferRd =>
    exact .ite (fun _ => .accepted .kept) fun _ => .rejected .kept
  | synInit =>
    exact .ite (fun _ => .rejected .kept) fun _ => .ite (fun _ => .rejected .kept) fun _ =>
      .ite (fun _ => .rejected .kept) fun _ => .accepted .kept
  | synDecide => exact .ite (fun _ => .accepted .kept) fun _ => .accepted .kept
  | rdreg => exact execRdreg_leadsTo fun _ _ => .kept

/-! ## The invariants of the display under a move (R200) -/

namespace Dsp.Move

variable {d d' : Dsp}

/-- R200 (a): the moves of the roles are exchanges, and the return to the initial permutation. -/
theorem rolesDistinct (moved : d.Move d') (roles : d.rolesDistinct) : d'.rolesDistinct := by
  cases moved with
  | kept | completed => exact roles
  | initialised => exact d.initialised_rolesDistinct
  | queued => exact roles.swapRenderReady
  | started => exact roles.swapReadyTransfer

/-- R200 (b): the two moves that write the transfer slot start from an idle display. -/
theorem transfer_of_busy (moved : d.Move d') (busy : d.transferBusy = true) : d'.transfer = d.transfer := by
  cases moved with
  | kept | queued | completed => rfl
  | initialised idle | started idle => exact absurd busy (ne_true_of_eq_false idle)

/-- R200 (c): a transfer starts only for a frame that waits, and only its end counts it. -/
theorem countersOk (moved : d.Move d') (counters : d.countersOk) (noWrap : d.framesRendered.toNat + 1 < 2 ^ 32) :
    d'.countersOk := by
  obtain ⟨counted, inFlight⟩ := counters
  cases moved with
  | kept => exact ⟨counted, inFlight⟩
  | initialised idle => exact ⟨le_rfl, fun busy => absurd busy (ne_true_of_eq_false idle)⟩
  | queued =>
    have waiting := Dsp.queued_waiting counted noWrap
    exact ⟨waiting.le, fun _ => waiting⟩
  | started _ waiting => exact ⟨counted, fun _ => waiting⟩
  | completed busy =>
    have waiting := inFlight busy
    refine ⟨?_, nofun⟩
    rw [Dsp.completed_framesTransferred_toNat waiting]
    exact waiting

end Dsp.Move

/-! ## The life of a frame (R192, R194, R201, R202) -/

/-- From an idle display before a wrap, a swap and a start put the frame drawn in the transfer slot. -/
theorem execAll_swap_start {s : State} (idle : s.dsp.transferBusy = false)
    (counted : s.dsp.framesTransferred.toNat ≤ s.dsp.framesRendered.toNat)
    (noWrap : s.dsp.framesRendered.toNat + 1 < 2 ^ 32) :
    ∃ t, execAll [.dspSwap, .dspStartXfer] s = .next t ∧ t.dsp = s.dsp.queued.started ∧ t.fb = s.fb := by
  have waiting := Dsp.queued_waiting counted noWrap
  have start := exec_dspStartXfer_of_waiting (s := (s.setDsp s.dsp.queued).answer .fg .ok 0) idle waiting
  exact ⟨_, (execAll_cons (exec_dspSwap s)).trans (execAll_cons start), rfl, rfl⟩

/-- The transfer that a start began is ended by DSP_DONE. -/
theorem execAll_swap_start_done {s : State} (idle : s.dsp.transferBusy = false)
    (counted : s.dsp.framesTransferred.toNat ≤ s.dsp.framesRendered.toNat)
    (noWrap : s.dsp.framesRendered.toNat + 1 < 2 ^ 32) :
    ∃ t, execAll [.dspSwap, .dspStartXfer, .dspDone] s = .next t ∧ t.dsp = s.dsp.queued.started.completed := by
  obtain ⟨t, ran, dsp, -⟩ := execAll_swap_start idle counted noWrap
  have busy : t.dsp.transferBusy = true := by rw [dsp]; rfl
  have ended : execAll [.dspDone] t = .next ((t.setDsp t.dsp.completed).answer .ev .ok 0) :=
    execAll_cons (exec_dspDone_of_busy busy)
  exact ⟨_, (execAll_append ran).trans ended, congrArg Dsp.completed dsp⟩

/-! ## The statements -/

/-- Settles O46: a store is one write to the canonical framebuffer memory, a load answers the zero-extended byte, and
the load's row refuses a byte field. -/
theorem framebufferStoresAndLoads : Obligations.FramebufferStoresAndLoads := by
  intro s addr b canonical
  refine ⟨formatA_eq_word 0x16 addr b ▸ decode_encode (.fbWr addr b), formatA_eq_word 0x17 addr b ▸ decode_fbRd addr b,
    fun inSpace => ⟨⟨_, exec_fbWr_of_inSpace b inSpace, memWrite_writes_one canonical inSpace b⟩,
      ⟨_, zext32_toNat (by decide) _, exec_fbRd_of_inSpace inSpace⟩⟩,
    fun beyond => ⟨exec_fbWr_rejected b beyond.not_gt, exec_fbRd_rejected beyond.not_gt⟩⟩

/-- Settles O47: the invariants hold after reset, and every operation makes one move of the display's registers, which
keeps them. -/
theorem displayInvariants : Obligations.DisplayInvariants := by
  refine ⟨⟨Dsp.atReset_rolesDistinct, le_rfl, nofun⟩, fun i s t ran => ?_⟩
  have moved : s.dsp.Move t.dsp := (exec_movesDisplay i s).of_eq_next ran
  exact ⟨moved.rolesDistinct, moved.transfer_of_busy, moved.countersOk⟩

/-- Settles O49: the swap makes the frame drawn the ready one, and the start the one in transfer. -/
theorem queuedFrameIsTheFrameSent : Obligations.QueuedFrameIsTheFrameSent := by
  intro s idle counted noWrap
  obtain ⟨t, ran, dsp, frames⟩ := execAll_swap_start idle counted noWrap
  have busy : t.dsp.transferBusy = true := by rw [dsp]; rfl
  have sent : t.dsp.transfer = s.dsp.render := by rw [dsp]; rfl
  refine ⟨t, ran, sent, busy, by rw [dsp]; rfl, by rw [dsp]; rfl, fun off => ⟨_, ?_, exec_xferRd_of_busy off busy⟩⟩
  rw [zext32_toNat (by decide), sent, State.frameByte, frames, State.frameByte]

/-- Settles O50: the first swap only adds to the count; the second one's frame is sent, and one of the two frames counted
is still waiting. -/
theorem supersededFrameStillCounts : Obligations.SupersededFrameStillCounts := by
  intro s idle even noWrap
  have once : s.dsp.queued.framesRendered.toNat = s.dsp.framesRendered.toNat + 1 :=
    Dsp.queued_framesRendered_toNat (by omega)
  have counted : s.dsp.queued.framesTransferred.toNat ≤ s.dsp.queued.framesRendered.toNat :=
    (Dsp.queued_waiting (even ▸ le_rfl) (by omega)).le
  have onceNoWrap : s.dsp.queued.framesRendered.toNat + 1 < 2 ^ 32 := by omega
  obtain ⟨t, ran, dsp⟩ :=
    execAll_swap_start_done (s := (s.setDsp s.dsp.queued).answer .fg .ok 0) idle counted onceNoWrap
  have stillIdle : t.dsp.transferBusy = false := by rw [dsp]; rfl
  have oneMore : t.dsp.framesRendered = t.dsp.framesTransferred + 1 := by
    rw [dsp]
    show s.dsp.framesRendered + 1 + 1 = s.dsp.framesTransferred + 1 + 1
    rw [even]
  have oneSent : t.dsp.framesTransferred = s.dsp.queued.framesRendered := by
    rw [dsp]
    show s.dsp.framesTransferred + 1 = s.dsp.framesRendered + 1
    rw [even]
  have waiting : t.dsp.framesTransferred.toNat < t.dsp.framesRendered.toNat := by
    rw [oneMore, BitVec.toNat_add, oneSent, once]
    exact (Nat.lt_succ_self _).trans_eq (Nat.mod_eq_of_lt noWrap).symm
  refine ⟨t, _, (execAll_cons (exec_dspSwap s)).trans ran, exec_dspHasFrame_of_waiting waiting, oneMore,
    exec_dspStartXfer_of_waiting stillIdle waiting, rfl, ?_⟩
  show t.dsp.ready = s.dsp.transfer
  rw [dsp]
  rfl

/-- Settles O41: an idle display is put back as reset leaves it. -/
theorem dspInitRestoresTheInitialRoles : Obligations.DspInitRestoresTheInitialRoles :=
  ⟨decode_encode .dspInit, fun _ => ⟨exec_dspInit_rejected, exec_dspInit_of_idle⟩⟩

/-- Settles O42: two polls answer the base of their slot, and the third compares the counts. -/
theorem dspPolls : Obligations.DspPolls :=
  ⟨decode_encode .dspGetRender, decode_encode .dspHasFrame, decode_encode .dspGetXfer, fun s =>
    ⟨_, _, slotBase_word_toNat s.dsp.render, slotBase_word_toNat s.dsp.transfer, exec_dspGetRender s, exec_dspGetXfer s,
      exec_dspHasFrame_of_waiting, exec_dspHasFrame_of_not_waiting⟩⟩

/-- Settles O43: the swap is one update, with the count modulo 2^32. -/
theorem swapQueuesTheRenderedFrame : Obligations.SwapQueuesTheRenderedFrame :=
  ⟨decode_encode .dspSwap, fun s => ⟨s.dsp.framesRendered + 1, BitVec.toNat_add _ _, exec_dspSwap s⟩⟩

/-- Settles O44: a start of an idle display with a frame waiting, and every other one. -/
theorem startTransferExchangesOrAnswersFalse : Obligations.StartTransferExchangesOrAnswersFalse :=
  ⟨decode_encode .dspStartXfer, fun _ => ⟨exec_dspStartXfer_of_waiting, exec_dspStartXfer_of_refused⟩⟩

/-- Settles O45: both operations while a transfer is in flight, and their rejections on an idle display. -/
theorem transferReadsAndCompletion : Obligations.TransferReadsAndCompletion := by
  refine ⟨decode_encode .dspDone, fun s off => ⟨formatA_offset_eq_word 0x86 off ▸ decode_encode (.xferRd off),
    fun busy => ?_, fun idle => ⟨exec_xferRd_rejected off idle, exec_dspDone_rejected idle⟩⟩⟩
  exact ⟨_, s.dsp.framesTransferred + 1, zext32_toNat (by decide) _, BitVec.toNat_add _ _,
    exec_xferRd_of_busy off busy, exec_dspDone_of_busy busy⟩

end Sys2Proof.Machine
end

section
/-! PROOFS of the statements of spec/42_sync.md: what each operation of the SYN unit answers under each of its tests, the
drift of R224 over the integers and the decision of R225 about it, and the lifecycle of R230. -/

namespace Sys2Proof.Machine

/-! ## The divisor and the band (R220, R224) -/

theorem ne_zero_of_one_le_toNat {w : Word} (positive : 1 ≤ w.toNat) : w ≠ 0 := by
  rintro rfl
  exact absurd positive (by decide)

theorem Syn.configured_maxDriftFrames_toNat (rate fps maxDrift : Word) :
    (Syn.configured rate fps maxDrift).maxDriftFrames.toNat = if maxDrift = 0 then 2 else maxDrift.toNat :=
  apply_ite BitVec.toNat (maxDrift = 0) Config.defaultMaxDrift maxDrift

/-! ## The drift over the integers (R224) -/

/-- `f - a/S` of R229: how far the frame counter is ahead of the audio frame index, the quotient truncated. -/
def Syn.frameLead (y : Syn) : Int :=
  (y.videoFramesRendered.toNat : Int) - ((y.audioSamplesPlayed.toNat / y.samplesPerFrame.toNat : Nat) : Int)

/-- The drift is the lead as a signed 32-bit word shows it. -/
theorem driftWord_toInt {y : Syn} (divisor : y.samplesPerFrame ≠ 0) :
    (driftWord y).toInt = y.frameLead.bmod (2 ^ 32) := by
  rw [driftWord, BitVec.toInt_sub, BitVec.toInt_eq_toNat_bmod, BitVec.toInt_eq_toNat_bmod, ← Int.sub_bmod,
    audioFrameIndex, quotient_toNat divisor]
  rfl

/-- A lead that fits a signed 32-bit word is the drift itself. -/
theorem driftWord_toInt_of_small {y : Syn} (divisor : y.samplesPerFrame ≠ 0) (small : |y.frameLead| < 2 ^ 31) :
    (driftWord y).toInt = y.frameLead := by
  obtain ⟨above, below⟩ := abs_lt.1 small
  rw [driftWord_toInt divisor]
  exact Int.bmod_eq_of_le_mul_two (by omega) (by omega)

/-! ## The decision (R225) -/

theorem Decision.code_injective : Function.Injective Decision.code := by
  intro d e
  cases d <;> cases e <;> decide

theorem decisionOf_eq_skipFrame_iff {drift band : Int} : decisionOf drift band = .skipFrame ↔ drift < -band := by
  rcases decisionOf_cases drift band with ⟨below, d⟩ | ⟨notBelow, -, d⟩ | ⟨notBelow, -, d⟩
  · exact iff_of_true d below
  · exact iff_of_false (by rw [d]; nofun) notBelow
  · exact iff_of_false (by rw [d]; nofun) notBelow

/-- A drift below the band is not above it, since the band is no negative number. -/
theorem decisionOf_eq_repeatFrame_iff {drift band : Int} (bandOk : 0 ≤ band) :
    decisionOf drift band = .repeatFrame ↔ drift > band := by
  rcases decisionOf_cases drift band with ⟨below, d⟩ | ⟨-, above, d⟩ | ⟨-, notAbove, d⟩
  · exact iff_of_false (by rw [d]; nofun) (by omega)
  · exact iff_of_true d above
  · exact iff_of_false (by rw [d]; nofun) notAbove

theorem decisionOf_eq_renderFrame_iff {drift band : Int} : decisionOf drift band = .renderFrame ↔ |drift| ≤ band := by
  rw [abs_le]
  rcases decisionOf_cases drift band with ⟨below, d⟩ | ⟨-, above, d⟩ | ⟨notBelow, notAbove, d⟩
  · exact iff_of_false (by rw [d]; nofun) (by omega)
  · exact iff_of_false (by rw [d]; nofun) (by omega)
  · exact iff_of_true d (by omega)

theorem decisionOf_code_toNat (drift band : Int) :
    (decisionOf drift band).code.toNat = if drift < -band then 1 else if drift > band then 2 else 0 := by
  rcases decisionOf_cases drift band with ⟨below, d⟩ | ⟨notBelow, above, d⟩ | ⟨notBelow, notAbove, d⟩
  · rw [d, if_pos below]; rfl
  · rw [d, if_neg notBelow, if_pos above]; rfl
  · rw [d, if_neg notBelow, if_neg notAbove]; rfl

/-- No signed 32-bit drift leaves a band of 2^31 or more. -/
theorem decisionOf_wideBand (drift : Word) {band : Int} (wide : 2 ^ 31 ≤ band) :
    decisionOf drift.toInt band = .renderFrame :=
  decisionOf_eq_renderFrame_iff.2 (abs_le.2
    ⟨(neg_le_neg wide).trans drift.le_toInt, drift.toInt_lt.le.trans wide⟩)

/-! ## What the operations answer (R220 to R228) -/

section
variable {s : State}

theorem exec_synInit_badState (rate fps maxDrift : Word) (notReset : s.syn.state ≠ .reset) :
    exec (.synInit rate fps maxDrift) s = .next (s.answer .fg .badState 0) :=
  if_pos notReset

/-- The premise covers a frame rate of 0 too, since a word's quotient by 0 is 0. -/
theorem exec_synInit_invalidParam {rate fps : Word} (maxDrift : Word) (reset : s.syn.state = .reset)
    (noDivisor : rate / fps = 0) : exec (.synInit rate fps maxDrift) s = .next (s.answer .fg .invalidParam 0) := by
  refine (if_neg (not_not.2 reset)).trans ?_
  by_cases noRate : fps = 0
  · exact if_pos noRate
  · exact (if_neg noRate).trans (if_pos noDivisor)

theorem exec_synInit_of_accepted {rate fps : Word} (maxDrift : Word) (reset : s.syn.state = .reset)
    (divisor : rate / fps ≠ 0) : exec (.synInit rate fps maxDrift) s =
      .next ((s.setSyn (Syn.configured rate fps maxDrift)).answer .fg .ok 0) := by
  obtain ⟨someRate, -⟩ := BitVec.udiv_ne_zero_iff_ne_zero_and_le.1 divisor
  exact ((if_neg (not_not.2 reset)).trans (if_neg someRate)).trans (if_neg divisor)

theorem exec_synStart_of_ready (ready : s.syn.state = .ready) :
    exec .synStart s = .next ((s.setSyn { s.syn with state := .running }).answer .fg .ok 0) :=
  if_neg (not_not.2 ready)

theorem exec_synStart_rejected (notReady : s.syn.state ≠ .ready) :
    exec .synStart s = .next (s.answer .fg .badState 0) :=
  if_pos notReady

theorem exec_synStop_of_running (running : s.syn.state = .running) :
    exec .synStop s = .next ((s.setSyn { s.syn with state := .stopped }).answer .fg .ok 0) :=
  if_neg (not_not.2 running)

theorem exec_synStop_rejected (notRunning : s.syn.state ≠ .running) :
    exec .synStop s = .next (s.answer .fg .badState 0) :=
  if_pos notRunning

theorem exec_synTick_of_running (cnt : BitVec 24) (running : s.syn.state = .running) :
    exec (.synTick cnt) s = .next ((s.setSyn
      { s.syn with audioSamplesPlayed := s.syn.audioSamplesPlayed + zext32 cnt }).answer .ev .ok 0) :=
  congrArg (returnOk .ev 0) (if_pos running)

theorem exec_synTick_of_not_running (cnt : BitVec 24) (notRunning : s.syn.state ≠ .running) :
    exec (.synTick cnt) s = .next (s.answer .ev .ok 0) :=
  congrArg (returnOk .ev 0) (if_neg notRunning)

theorem exec_synDecide_of_running (running : s.syn.state = .running) :
    exec .synDecide s = .next ((s.setSyn s.syn.recordDrift).answer .fg .ok
      (decisionOf (driftWord s.syn).toInt s.syn.maxDriftFrames.toNat).code) :=
  if_neg (not_not.2 running)

theorem exec_synDecide_of_not_running (notRunning : s.syn.state ≠ .running) :
    exec .synDecide s = .next (s.answer .fg .ok 3) :=
  if_pos notRunning

theorem exec_synAframe_of_divisor (divisor : s.syn.samplesPerFrame ≠ 0) :
    exec .synAframe s = .next (s.answer .fg .ok (audioFrameIndex s.syn)) :=
  if_neg divisor

theorem exec_synAframe_rejected (noDivisor : s.syn.samplesPerFrame = 0) :
    exec .synAframe s = .next (s.answer .fg .badState 0) :=
  if_pos noDivisor

end

/-! ## The operations without a transition (R230) -/

theorem synTick_sameLifecycles (cnt : BitVec 24) (s : State) : SameLifecycles s (synTick cnt s) := by
  rw [synTick_eq]
  exact ⟨rfl, tickedSyn_state cnt s.syn⟩

theorem synOperations_sameLifecycles (s : State) (cnt : BitVec 24) :
    ∀ i ∈ [Instr.synTick cnt, .synDecide, .synRendered, .synSkipped, .synAframe],
      LeadsTo (SameLifecycles s) (exec i s) := by
  simp only [List.forall_mem_cons]
  exact ⟨.accepted (synTick_sameLifecycles cnt s),
    .ite (fun _ => .accepted ⟨rfl, rfl⟩) fun _ => .accepted ⟨rfl, rfl⟩,
    .accepted ⟨rfl, rfl⟩, .accepted ⟨rfl, rfl⟩,
    .ite (fun _ => .rejected ⟨rfl, rfl⟩) fun _ => .accepted ⟨rfl, rfl⟩, nofun⟩

/-! ## The statements -/

/-- Settles O51: the two rejections, and the registers of `Syn.configured`. -/
theorem synInitConfiguresOrRejects : Obligations.SynInitConfiguresOrRejects := by
  intro s w1 w2 w3
  refine ⟨decode_encode (.synInit w1 w2 w3), exec_synInit_badState w1 w2 w3,
    fun reset rejected => exec_synInit_invalidParam w3 reset (BitVec.udiv_eq_zero_iff_eq_zero_or_lt.2 rejected),
    fun reset someRate enough => ?_⟩
  have divisor : w1 / w2 ≠ 0 := BitVec.udiv_ne_zero_iff_ne_zero_and_le.2 ⟨someRate, enough⟩
  exact ⟨_, _, BitVec.toNat_udiv, Syn.configured_maxDriftFrames_toNat w1 w2 w3,
    exec_synInit_of_accepted w3 reset divisor⟩

/-- Settles O55: the drift is the lead modulo 2^32, read as signed; the statistics and the answer follow from it. -/
theorem decideComparesTheDriftWithTheBand : Obligations.DecideComparesTheDriftWithTheBand := by
  refine ⟨decode_encode .synDecide, fun s => ⟨exec_synDecide_of_not_running, fun running positive => ?_⟩⟩
  have drift := driftWord_toInt (ne_zero_of_one_le_toNat positive)
  refine ⟨maxSigned s.syn.maxDrift (driftWord s.syn), minSigned s.syn.minDrift (driftWord s.syn), _,
    ?greatest, ?least, ?answer, fun wide => congrArg Decision.code (decisionOf_wideBand (driftWord s.syn) wide),
    exec_synDecide_of_running running⟩
  case greatest => rw [maxSigned_toInt, drift]; rfl
  case least => rw [minSigned_toInt, drift]; rfl
  case answer => rw [decisionOf_code_toNat, drift]; rfl

/-- Settles O56: the drift is the lead itself, and the three answers are distinct codes. -/
theorem decisionLaw : Obligations.DecisionLaw := by
  intro s running positive d band small
  have drift : (driftWord s.syn).toInt = d := driftWord_toInt_of_small (ne_zero_of_one_le_toNat positive) small
  have bandOk : 0 ≤ band := Int.natCast_nonneg _
  refine ⟨_, (decisionOf d band).code, drift ▸ exec_synDecide_of_running running, rfl, ?_⟩
  simp only [Decision.code_injective.eq_iff]
  exact ⟨decisionOf_eq_renderFrame_iff, decisionOf_eq_skipFrame_iff, decisionOf_eq_repeatFrame_iff bandOk⟩

/-- Settles O52: the two transitions and their rejections. -/
theorem synStartAndStop : Obligations.SynStartAndStop :=
  ⟨decode_encode .synStart, decode_encode .synStop, fun _ =>
    ⟨exec_synStart_of_ready, exec_synStart_rejected, exec_synStop_of_running, exec_synStop_rejected⟩⟩

/-- Settles O53: the count is the header's immediate, and it is added modulo 2^32. -/
theorem tickCountsOnlyWhileRunning : Obligations.TickCountsOnlyWhileRunning := by
  intro s cnt
  refine ⟨formatI_eq_ofNat 0x85 cnt ▸ decode_encode (.synTick cnt), fun running => ?_,
    exec_synTick_of_not_running cnt⟩
  have counted : (s.syn.audioSamplesPlayed + zext32 cnt).toNat =
      (s.syn.audioSamplesPlayed.toNat + cnt.toNat) % 2 ^ 32 := by
    rw [BitVec.toNat_add, zext32_toNat (by decide)]
  exact ⟨_, counted, exec_synTick_of_running cnt running⟩

/-- Settles O57: both operations answer without a test, and each count grows by one modulo 2^32. -/
theorem renderedAndSkippedFramesCount : Obligations.RenderedAndSkippedFramesCount :=
  ⟨decode_encode .synRendered, decode_encode .synSkipped, fun s =>
    ⟨s.syn.videoFramesRendered + 1, s.syn.framesSkipped + 1, BitVec.toNat_add _ _, BitVec.toNat_add _ _, rfl, rfl⟩⟩

/-- Settles O58: the answer is the audio frame index, which has a value once there is a divisor. -/
theorem audioFrameIndexIsTheQuotient : Obligations.AudioFrameIndexIsTheQuotient :=
  ⟨decode_encode .synAframe, fun s => ⟨exec_synAframe_rejected, fun divisor =>
    ⟨audioFrameIndex s.syn, quotient_toNat divisor, exec_synAframe_of_divisor divisor⟩⟩⟩

/-- Settles O59: the three transitions and their rejections, and the five operations without a transition. -/
theorem synLifecycle : Obligations.SynLifecycle := by
  intro s w1 w2 w3 cnt
  refine ⟨fun reset someRate enough => ⟨_, exec_synInit_of_accepted w3 reset
      (BitVec.udiv_ne_zero_iff_ne_zero_and_le.2 ⟨someRate, enough⟩), rfl⟩,
    fun ready => ⟨_, exec_synStart_of_ready ready, rfl⟩, fun running => ⟨_, exec_synStop_of_running running, rfl⟩,
    exec_synInit_badState w1 w2 w3, exec_synStart_rejected, exec_synStop_rejected, fun i listed t ran => ?_⟩
  obtain ⟨-, syn⟩ := (synOperations_sameLifecycles s cnt i listed).of_eq_next ran
  exact syn

end Sys2Proof.Machine
end

section
/-! PROOFS of the statements of spec/60_exceptions.md: the order in which due commands are taken, the disjoint state of
audio and display events, everything an operation can do with the causes of its rejections, and what the operations of
each port leave unchanged. -/

namespace Sys2Proof

/-! ## Events by their header word (R118, R276) -/

/-- A one-word command of port EV is one header word, and no other header decodes to it. -/
theorem decode_ev_eq_ok_iff {i : Instr} {h w : Word} (event : i.port = .ev) (word : encode i = [w]) :
    decode .ev [h] = .ok i ↔ h = w := by
  constructor
  · intro legal
    obtain ⟨-, words, -⟩ := encode_of_decode legal
    exact (List.cons_eq_cons.1 (words.symm.trans word)).1
  · rintro rfl
    exact word ▸ event ▸ decode_encode i

theorem encode_xferRd (off : BitVec 10) :
    encode (.xferRd off) = [BitVec.ofNat 32 (0x86000000 + 2 ^ 8 * off.toNat)] :=
  congrArg (fun h => [h]) (formatA_offset_eq_word 0x86 off)

end Sys2Proof

namespace Sys2Proof.Machine

theorem isAudioEvent_iff (h : Word) : isAudioEvent h = true ↔
    decode .ev [h] = .ok .trig ∨ decode .ev [h] = .ok .audHt ∨ decode .ev [h] = .ok .audTc ∨
      decode .ev [h] = .ok .audErr := by
  unfold isAudioEvent
  split <;> simp_all

theorem isDisplayEvent_iff (h : Word) : isDisplayEvent h = true ↔
    decode .ev [h] = .ok .dspDone ∨ ∃ off, decode .ev [h] = .ok (.xferRd off) := by
  unfold isDisplayEvent
  split <;> simp_all

theorem isAudioEvent_iff_word (h : Word) :
    isAudioEvent h = true ↔ h = 0x80000000 ∨ h = 0x81000000 ∨ h = 0x82000000 ∨ h = 0x83000000 :=
  (isAudioEvent_iff h).trans (or_congr (decode_ev_eq_ok_iff rfl rfl) (or_congr (decode_ev_eq_ok_iff rfl rfl)
    (or_congr (decode_ev_eq_ok_iff rfl rfl) (decode_ev_eq_ok_iff rfl rfl))))

theorem isDisplayEvent_iff_word (h : Word) : isDisplayEvent h = true ↔
    h = 0x84000000 ∨ ∃ off : BitVec 10, h = BitVec.ofNat 32 (0x86000000 + 2 ^ 8 * off.toNat) :=
  (isDisplayEvent_iff h).trans (or_congr (decode_ev_eq_ok_iff rfl rfl)
    (exists_congr fun off => decode_ev_eq_ok_iff rfl (encode_xferRd off)))

/-! ## What a turn fetches (R94, R276) -/

theorem fetch_ev_turn {s : State} {ev fg : Nat} {rest : List Due} {h : Word} {left : List Word}
    (turn : s.due = .commands (ev + 1) fg :: rest) (taken : takeEvent (ev + 1) s.evIn = some (h, left)) :
    fetch s = .command .ev [h] { s with evIn := left, due := stillDue ev fg rest } := by
  unfold fetch
  simp only [turn, taken]

theorem fetch_fg_turn {s : State} {fg : Nat} {rest : List Due} {ws left : List Word}
    (turn : s.due = .commands 0 (fg + 1) :: rest) (taken : takeCommand .fg s.fgIn = some (ws, left)) :
    fetch s = .command .fg ws { s with fgIn := left, due := stillDue 0 fg rest } := by
  unfold fetch
  simp only [turn, taken]

/-! ## What the events leave unchanged (R279) -/

/-- What an event can do to the AUD registers the foreground writes too. -/
def Aud.EventWrites (a a' : Aud) : Prop :=
  a'.syncAttached = a.syncAttached ∧ a'.refillCount = a.refillCount ∧ (a'.state = a.state ∨ a'.state = .error) ∧
    (a.needsRefill = true → a'.needsRefill = true)

theorem Aud.EventWrites.refl (a : Aud) : a.EventWrites a := ⟨rfl, rfl, .inl rfl, id⟩

/-- What an event can do to the DSP registers. -/
def Dsp.EventWrites (d d' : Dsp) : Prop :=
  d'.render = d.render ∧ d'.ready = d.ready ∧ d'.transfer = d.transfer ∧ d'.framesRendered = d.framesRendered ∧
    (d.transferBusy = false → d'.transferBusy = false)

theorem Dsp.EventWrites.refl (d : Dsp) : d.EventWrites d := ⟨rfl, rfl, rfl, rfl, id⟩

/-- What an event can do to the block's state: of the synchroniser it writes the sample count alone, and no memory. -/
structure EventWrites (s t : State) : Prop where
  aud : s.aud.EventWrites t.aud
  dsp : s.dsp.EventWrites t.dsp
  syn : t.syn = { s.syn with audioSamplesPlayed := t.syn.audioSamplesPlayed }
  memories : t.smp = s.smp ∧ t.fb = s.fb

theorem EventWrites.refl (s : State) : EventWrites s s := ⟨.refl _, .refl _, rfl, rfl, rfl⟩

/-- An audio event on top of what an event has written already. -/
theorem audEvent_eventWrites (h : Half) {s t : State} (writes : EventWrites s t) : EventWrites s (audEvent h t) := by
  obtain ⟨⟨attached, refills, state, -⟩, dsp, syn, memories⟩ := writes
  rw [audEvent_eq_update]
  exact ⟨⟨attached, refills, state, fun _ => rfl⟩, dsp, by rw [syn], memories⟩

theorem sequencerStep_eventWrites (s : State) : EventWrites s (sequencerStep s) := by
  have moved : EventWrites s (movedOn s) := ⟨.refl _, .refl _, rfl, rfl, rfl⟩
  rw [sequencerStep_eq]
  rcases raiseAtPosition_cases (movedOn s) with ⟨-, half⟩ | ⟨-, wrap⟩ | ⟨-, -, none⟩
  · rw [half]; exact audEvent_eventWrites .first moved
  · rw [wrap]; exact audEvent_eventWrites .second moved
  · rw [none]; exact moved

theorem synTick_eventWrites (cnt : BitVec 24) (s : State) : EventWrites s (synTick cnt s) := by
  rcases synTick_cases cnt s with ⟨-, counted⟩ | ⟨-, dropped⟩
  · rw [counted]; exact ⟨.refl _, .refl _, rfl, rfl, rfl⟩
  · rw [dropped]; exact .refl s

/-! ## Audio events and display events touch disjoint state (R276) -/

theorem audEvent_withDisplay (h : Half) (s : State) (d : Dsp) (record : List Response) :
    audEvent h { s with dsp := d, responses := record } = { audEvent h s with dsp := d, responses := record } := by
  rw [audEvent_eq_update, audEvent_eq_update]
  rfl

theorem raiseAtPosition_withDisplay (s : State) (d : Dsp) (record : List Response) :
    raiseAtPosition { s with dsp := d, responses := record } =
      { raiseAtPosition s with dsp := d, responses := record } := by
  unfold raiseAtPosition
  dsimp only
  split
  · exact audEvent_withDisplay .first s d record
  · split
    · exact audEvent_withDisplay .second s d record
    · rfl

theorem sequencerStep_withDisplay (s : State) (d : Dsp) (record : List Response) :
    sequencerStep { s with dsp := d, responses := record } =
      { sequencerStep s with dsp := d, responses := record } :=
  raiseAtPosition_withDisplay (movedOn s) d record

/-- Whatever the display's registers and the record of responses are, the instruction does the same to the rest of the
state, answers the same status, and leaves them and the frames alone. -/
def IgnoresDisplay (i : Instr) (s : State) : Prop :=
  ∃ (t : State) (st : Status), t.fb = s.fb ∧ ∀ (d : Dsp) (record : List Response),
    exec i { s with dsp := d, responses := record } =
      .next (State.answer { t with dsp := d, responses := record } .ev st 0)

theorem exec_trig_of_playing {s : State} (playing : s.aud.state = .playing) :
    exec .trig s = .next ((sequencerStep s).answer .ev .ok 0) :=
  if_neg (not_not.2 playing)

theorem trig_ignoresDisplay (s : State) : IgnoresDisplay .trig s := by
  by_cases playing : s.aud.state = .playing
  · obtain ⟨-, frames⟩ := (sequencerStep_eventWrites s).memories
    refine ⟨sequencerStep s, .ok, frames, fun d record => ?_⟩
    rw [← sequencerStep_withDisplay]
    exact exec_trig_of_playing playing
  · exact ⟨s, .ok, rfl, fun _ _ => if_pos playing⟩

theorem audEvent_ignoresDisplay {i : Instr} (h : Half) (s : State)
    (performs : ∀ t, exec i t = returnOk .ev 0 (audEvent h t)) : IgnoresDisplay i s := by
  obtain ⟨-, frames⟩ := (audEvent_eventWrites h (.refl s)).memories
  refine ⟨audEvent h s, .ok, frames, fun d record => ?_⟩
  rw [performs, audEvent_withDisplay]
  rfl

theorem audErr_ignoresDisplay (s : State) : IgnoresDisplay .audErr s := by
  by_cases playing : s.aud.state = .playing
  · exact ⟨s.setAud { s.aud with state := .error }, .ok, rfl, fun _ _ => exec_audErr_of_playing playing⟩
  · exact ⟨s, .badState, rfl, fun _ _ => exec_audErr_rejected playing⟩

theorem audioEvents_ignoreDisplay (s : State) :
    ∀ a ∈ [Instr.trig, .audHt, .audTc, .audErr], IgnoresDisplay a s := by
  simp only [List.forall_mem_cons]
  exact ⟨trig_ignoresDisplay s, audEvent_ignoresDisplay .first s fun _ => rfl,
    audEvent_ignoresDisplay .second s fun _ => rfl, audErr_ignoresDisplay s, nofun⟩

/-- In every state with the display's registers and the frames of `s` the instruction answers the same and writes the
same display registers, and nothing else. -/
def OnlyDisplay (i : Instr) (s : State) : Prop :=
  ∃ d st v, ∀ t : State, t.dsp = s.dsp → t.fb = s.fb → exec i t = .next ((t.setDsp d).answer .ev st v)

theorem dspDone_onlyDisplay (s : State) : OnlyDisplay .dspDone s := by
  by_cases busy : s.dsp.transferBusy = true
  · exact ⟨s.dsp.completed, .ok, 0, fun t dsp _ => dsp ▸ exec_dspDone_of_busy (dsp ▸ busy)⟩
  · have idle := eq_false_of_ne_true busy
    exact ⟨s.dsp, .badState, 0, fun t dsp _ => dsp ▸ exec_dspDone_rejected (dsp ▸ idle)⟩

theorem xferRd_onlyDisplay (off : BitVec 10) (s : State) : OnlyDisplay (.xferRd off) s := by
  by_cases busy : s.dsp.transferBusy = true
  · refine ⟨s.dsp, .ok, zext32 (s.frameByte s.dsp.transfer off.toNat), fun t dsp frames => ?_⟩
    rw [State.frameByte, ← frames, ← dsp]
    exact exec_xferRd_of_busy off (dsp ▸ busy)
  · have idle := eq_false_of_ne_true busy
    exact ⟨s.dsp, .badState, 0, fun t dsp _ => dsp ▸ exec_xferRd_rejected off (dsp ▸ idle)⟩

/-- The two effects meet in no register: either order ends in the effect of both, and only the responses show it. -/
theorem execAll_pair_comm {a d : Instr} {s : State} (audio : IgnoresDisplay a s) (display : OnlyDisplay d s) :
    ∃ t u ra rd, execAll [a, d] s = .next t ∧ execAll [d, a] s = .next u ∧
      t.responses = s.responses ++ [ra, rd] ∧ u.responses = s.responses ++ [rd, ra] ∧
      { t with responses := [] } = { u with responses := [] } := by
  obtain ⟨t, st, frames, audioRuns⟩ := audio
  obtain ⟨d', st', v, displayRuns⟩ := display
  have audioFirst := (execAll_cons (is := [d]) (audioRuns s.dsp s.responses)).trans
    (execAll_cons (displayRuns _ rfl frames))
  have displayFirst := (execAll_cons (is := [a]) (displayRuns s rfl rfl)).trans
    (execAll_cons (audioRuns d' (s.responses ++ [Response.mk .ev st' v])))
  exact ⟨_, _, ⟨.ev, st, 0⟩, ⟨.ev, st', v⟩, audioFirst, displayFirst, List.append_assoc _ _ _,
    List.append_assoc _ _ _, rfl⟩

/-! ## Everything an operation can do -/

/-- Every cause of BAD_STATE (R263). -/
inductive BadStateCause (s : State) : Instr → Prop
  | audInit (attach : Bool) (notReset : s.aud.state ≠ .reset) : BadStateCause s (.audInit attach)
  | audStart (notReady : s.aud.state ≠ .ready) : BadStateCause s .audStart
  | audStop (notPlaying : s.aud.state ≠ .playing) : BadStateCause s .audStop
  | audErr (notPlaying : s.aud.state ≠ .playing) : BadStateCause s .audErr
  | dspInit (busy : s.dsp.transferBusy = true) : BadStateCause s .dspInit
  | xferRd (off : BitVec 10) (idle : s.dsp.transferBusy = false) : BadStateCause s (.xferRd off)
  | dspDone (idle : s.dsp.transferBusy = false) : BadStateCause s .dspDone
  | synInit (w1 w2 w3 : Word) (notReset : s.syn.state ≠ .reset) : BadStateCause s (.synInit w1 w2 w3)
  | synStart (notReady : s.syn.state ≠ .ready) : BadStateCause s .synStart
  | synStop (notRunning : s.syn.state ≠ .running) : BadStateCause s .synStop
  | synAframe (noDivisor : s.syn.samplesPerFrame = 0) : BadStateCause s .synAframe

/-- Every cause of INVALID_PARAM on this hardware (R262, R267). -/
inductive InvalidParamCause (s : State) : Instr → Prop
  | synInit (w1 w2 w3 : Word) (reset : s.syn.state = .reset) (noDivisor : w2 = 0 ∨ w1.toNat / w2.toNat = 0) :
      InvalidParamCause s (.synInit w1 w2 w3)
  | fbWr (addr : BitVec 12) (byte : Byte) (beyond : 3072 ≤ addr.toNat) : InvalidParamCause s (.fbWr addr byte)
  | fbRd (addr : BitVec 12) (beyond : 3072 ≤ addr.toNat) : InvalidParamCause s (.fbRd addr)
  | rdreg (reg : BitVec 8) (unlisted : ¬ListedRegister reg.toNat) : InvalidParamCause s (.rdreg reg)

/-- The parts of `s` that an accepted operation writes, before its response. What the foreground's stores and the
synchroniser's foreground operations write into their one part is left open. -/
inductive Effect (s : State) : Instr → State → Prop
  | none (i : Instr) : Effect s i s
  | audInit (attach : Bool) :
      Effect s (.audInit attach) ((s.setSmp (memFill Config.smpSize Config.silence)).setAud (Aud.initialised attach))
  | audStart : Effect s .audStart (s.setAud { s.aud with pos := 0, state := .playing })
  | audStop : Effect s .audStop (s.setAud { s.aud with state := .ready })
  | audFilled : Effect s .audFilled (s.setAud { s.aud.clearRefill with refillCount := s.aud.refillCount + 1 })
  | sampleStore {i : Instr} (fg : i.port = .fg) (m : Mem 12) : Effect s i (s.setSmp m)
  | frameStore {i : Instr} (fg : i.port = .fg) (m : Mem 8) : Effect s i (s.setFb m)
  | dspInit : Effect s .dspInit (s.setDsp s.dsp.initialised)
  | dspSwap : Effect s .dspSwap (s.setDsp s.dsp.queued)
  | dspStartXfer : Effect s .dspStartXfer (s.setDsp s.dsp.started)
  | synWrite {i : Instr} (fg : i.port = .fg) (y : Syn) : Effect s i (s.setSyn y)
  | trig (playing : s.aud.state = .playing) : Effect s .trig (sequencerStep s)
  | audHt : Effect s .audHt (audEvent .first s)
  | audTc : Effect s .audTc (audEvent .second s)
  | audErr : Effect s .audErr (s.setAud { s.aud with state := .error })
  | dspDone : Effect s .dspDone (s.setDsp s.dsp.completed)
  | synTick (cnt : BitVec 24) : Effect s (.synTick cnt) (synTick cnt s)

/-- The three ends of an operation: accepted with an effect, or rejected for a cause with no effect (R14, R261). -/
inductive Performed (s : State) (i : Instr) : Answer → Prop
  | accepted {v : Word} {t : State} (effect : Effect s i t) : Performed s i (returnOk i.port v t)
  | badState (cause : BadStateCause s i) : Performed s i (raise i.port .badState s)
  | invalidParam (cause : InvalidParamCause s i) : Performed s i (raise i.port .invalidParam s)

namespace Performed

variable {s : State} {i : Instr} {a b : Answer}

/-- An operation that answers and does nothing else. -/
theorem answered {v : Word} : Performed s i (returnOk i.port v s) := .accepted (.none i)

theorem ite {c : Prop} [Decidable c] (yes : c → Performed s i a) (no : ¬c → Performed s i b) :
    Performed s i (if c then a else b) := by
  split
  · exact yes ‹_›
  · exact no ‹_›

end Performed

theorem exec_smpRdl (idx : BitVec 12) (s : State) :
    exec (.smpRdl idx) s = .next (s.answer .fg .ok (zext32 (memRead s.smp (leftAddr idx)))) :=
  loadSample_eq idx (leftAddr idx) s

theorem exec_smpRdr (idx : BitVec 12) (s : State) :
    exec (.smpRdr idx) s = .next (s.answer .fg .ok (zext32 (memRead s.smp (rightAddr idx)))) :=
  loadSample_eq idx (rightAddr idx) s

theorem exec_synInit_performed (w1 w2 w3 : Word) (s : State) :
    Performed s (.synInit w1 w2 w3) (exec (.synInit w1 w2 w3) s) :=
  .ite (fun notReset => .badState (.synInit w1 w2 w3 notReset)) fun isReset =>
    have reset := not_not.1 isReset
    .ite (fun noRate => .invalidParam (.synInit w1 w2 w3 reset (.inl noRate))) fun _ =>
      .ite (fun noDivisor => .invalidParam (.synInit w1 w2 w3 reset
          (.inr (BitVec.toNat_udiv.symm.trans (congrArg BitVec.toNat noDivisor))))) fun _ =>
        .accepted (.synWrite rfl _)

theorem exec_rdreg_performed (reg : BitVec 8) (s : State) : Performed s (.rdreg reg) (exec (.rdreg reg) s) := by
  by_cases listed : ListedRegister reg.toNat
  · rw [execRdreg_of_listed s listed]; exact .answered
  · rw [execRdreg_of_unlisted s listed]; exact .invalidParam (.rdreg reg listed)

/-- An `FB` address outside the memory is 3072 or above. -/
theorem le_of_not_fbAddrInRange {addr : BitVec 12} (beyond : ¬fbAddrInRange addr = true) : 3072 ≤ addr.toNat :=
  not_lt.1 (beyond ∘ (fbAddrInRange_iff addr).2)

/-- The tests of an operation lead to its effect, to an answer alone, or to a cause of rejection. -/
theorem exec_performed (i : Instr) (s : State) : Performed s i (exec i s) := by
  cases i with
  | audInit attach =>
    exact .ite (fun notReset => .badState (.audInit attach notReset)) fun _ => .accepted (.audInit attach)
  | audStart => exact .ite (fun notReady => .badState (.audStart notReady)) fun _ => .accepted .audStart
  | audStop => exact .ite (fun notPlaying => .badState (.audStop notPlaying)) fun _ => .accepted .audStop
  | audNeedsRefill | audGetFillHalf | audGetLbuf | audGetRbuf => exact .answered
  | audFilled => exact .accepted .audFilled
  | smpWrl idx val => rw [exec_smpWrl]; exact .accepted (.sampleStore rfl _)
  | smpWrr idx val => rw [exec_smpWrr]; exact .accepted (.sampleStore rfl _)
  | smpRdl idx => rw [exec_smpRdl]; exact .answered
  | smpRdr idx => rw [exec_smpRdr]; exact .answered
  | dspInit => exact .ite (fun busy => .badState (.dspInit busy)) fun _ => .accepted .dspInit
  | dspGetRender | dspHasFrame | dspGetXfer => exact .answered
  | dspSwap => exact .accepted .dspSwap
  | dspStartXfer => exact .ite (fun _ => .answered) fun _ => .ite (fun _ => .answered) fun _ => .accepted .dspStartXfer
  | fbWr addr byte =>
    exact .ite (fun _ => .accepted (.frameStore rfl _)) fun beyond =>
      .invalidParam (.fbWr addr byte (le_of_not_fbAddrInRange beyond))
  | fbRd addr =>
    exact .ite (fun _ => .answered) fun beyond => .invalidParam (.fbRd addr (le_of_not_fbAddrInRange beyond))
  | synInit w1 w2 w3 => exact exec_synInit_performed w1 w2 w3 s
  | synStart => exact .ite (fun notReady => .badState (.synStart notReady)) fun _ => .accepted (.synWrite rfl _)
  | synStop => exact .ite (fun notRunning => .badState (.synStop notRunning)) fun _ => .accepted (.synWrite rfl _)
  | synDecide => exact .ite (fun _ => .answered) fun _ => .accepted (.synWrite rfl _)
  | synRendered | synSkipped => exact .accepted (.synWrite rfl _)
  | synAframe => exact .ite (fun noDivisor => .badState (.synAframe noDivisor)) fun _ => .answered
  | rdreg reg => exact exec_rdreg_performed reg s
  | trig => exact .ite (fun _ => .answered) fun playing => .accepted (.trig (not_not.1 playing))
  | audHt => exact .accepted .audHt
  | audTc => exact .accepted .audTc
  | audErr => exact .ite (fun notPlaying => .badState (.audErr notPlaying)) fun _ => .accepted .audErr
  | dspDone =>
    exact .ite (fun _ => .accepted .dspDone) fun notBusy => .badState (.dspDone (eq_false_of_ne_true notBusy))
  | synTick cnt => exact .accepted (.synTick cnt)
  | xferRd off =>
    exact .ite (fun _ => .answered) fun notBusy => .badState (.xferRd off (eq_false_of_ne_true notBusy))

/-- The state an operation leaves is its effect with one response on record. -/
theorem exec_effect {i : Instr} {s u : State} (ran : exec i s = .next u) :
    ∃ t st v, Effect s i t ∧ u = t.answer i.port st v := by
  have performed := exec_performed i s
  generalize exec i s = a at performed ran
  cases performed with
  | accepted effect => exact ⟨_, _, _, effect, returnOk_eq_next.1 ran⟩
  | badState | invalidParam => exact ⟨_, _, _, .none i, raise_eq_next.1 ran⟩

/-- No operation takes from the ports or adds to what is due. -/
theorem exec_keepsInputs {i : Instr} {s t : State} (ran : exec i s = .next t) :
    t.fgIn = s.fgIn ∧ t.evIn = s.evIn ∧ t.due = s.due := by
  have ends := exec_endsOn i s
  generalize exec i s = a at ends ran
  cases ends with
  | accepted v effect =>
    obtain rfl := returnOk_eq_next.1 ran
    obtain ⟨fgIn, evIn, due, -⟩ := effect
    exact ⟨fgIn, evIn, due⟩
  | rejected =>
    obtain rfl := raise_eq_next.1 ran
    exact ⟨rfl, rfl, rfl⟩

/-! ## The causes of a rejection (R262, R263) -/

/-- Equal answers have equal statuses: the response stands last on record. -/
theorem status_of_answer_eq {s t : State} {p q : Port} {st st' : Status} {v w : Word}
    (same : t.answer p st v = s.answer q st' w) : st = st' := by
  have record := congrArg State.responses same
  obtain ⟨-, last⟩ := List.append_inj' record rfl
  exact congrArg Response.status (List.cons_eq_cons.1 last).1

theorem badStateCause_of_exec {i : Instr} {s : State} (ran : exec i s = .next (s.answer i.port .badState 0)) :
    BadStateCause s i := by
  have performed := exec_performed i s
  generalize exec i s = a at performed ran
  cases performed with
  | accepted => exact nomatch status_of_answer_eq (returnOk_eq_next.1 ran)
  | badState cause => exact cause
  | invalidParam => exact nomatch status_of_answer_eq (raise_eq_next.1 ran)

theorem invalidParamCause_of_exec {i : Instr} {s : State}
    (ran : exec i s = .next (s.answer i.port .invalidParam 0)) : InvalidParamCause s i := by
  have performed := exec_performed i s
  generalize exec i s = a at performed ran
  cases performed with
  | accepted => exact nomatch status_of_answer_eq (returnOk_eq_next.1 ran)
  | badState => exact nomatch status_of_answer_eq (raise_eq_next.1 ran)
  | invalidParam cause => exact cause

theorem exec_of_badStateCause {i : Instr} {s : State} (cause : BadStateCause s i) :
    exec i s = .next (s.answer i.port .badState 0) := by
  cases cause with
  | audInit attach notReset => exact exec_audInit_rejected attach notReset
  | audStart notReady => exact exec_audStart_rejected notReady
  | audStop notPlaying => exact exec_audStop_rejected notPlaying
  | audErr notPlaying => exact exec_audErr_rejected notPlaying
  | dspInit busy => exact exec_dspInit_rejected busy
  | xferRd off idle => exact exec_xferRd_rejected off idle
  | dspDone idle => exact exec_dspDone_rejected idle
  | synInit w1 w2 w3 notReset => exact exec_synInit_badState w1 w2 w3 notReset
  | synStart notReady => exact exec_synStart_rejected notReady
  | synStop notRunning => exact exec_synStop_rejected notRunning
  | synAframe noDivisor => exact exec_synAframe_rejected noDivisor

theorem exec_of_invalidParamCause {i : Instr} {s : State} (cause : InvalidParamCause s i) :
    exec i s = .next (s.answer i.port .invalidParam 0) := by
  cases cause with
  | synInit w1 w2 w3 reset noDivisor =>
    refine exec_synInit_invalidParam w3 reset ?_
    rcases noDivisor with rfl | noDivisor
    · exact BitVec.udiv_zero
    · exact BitVec.eq_of_toNat_eq (BitVec.toNat_udiv.trans noDivisor)
  | fbWr addr byte beyond => exact exec_fbWr_rejected byte beyond.not_gt
  | fbRd addr beyond => exact exec_fbRd_rejected beyond.not_gt
  | rdreg reg unlisted => exact execRdreg_of_unlisted s unlisted

/-! ## What the operations of each port leave unchanged (R279) -/

theorem Effect.eventWrites {s t : State} {i : Instr} (effect : Effect s i t) (event : i.port = .ev) :
    EventWrites s t := by
  cases effect with
  | none => exact .refl s
  | trig => exact sequencerStep_eventWrites s
  | audHt => exact audEvent_eventWrites .first (.refl s)
  | audTc => exact audEvent_eventWrites .second (.refl s)
  | audErr => exact ⟨⟨rfl, rfl, .inr rfl, id⟩, .refl _, rfl, rfl, rfl⟩
  | dspDone => exact ⟨.refl _, ⟨rfl, rfl, rfl, rfl, fun _ => rfl⟩, rfl, rfl, rfl⟩
  | synTick cnt => exact synTick_eventWrites cnt s
  | sampleStore fg | frameStore fg | synWrite fg => exact nomatch fg.symm.trans event
  | audInit | audStart | audStop | audFilled | dspInit | dspSwap | dspStartXfer => exact nomatch event

theorem Effect.foregroundAud {s t : State} {i : Instr} (effect : Effect s i t) (fg : i.port = .fg)
    (notInit : ∀ b, i ≠ .audInit b) :
    (i ≠ .audStart → t.aud.pos = s.aud.pos) ∧ t.aud.fillHalf = s.aud.fillHalf ∧
      (s.aud.needsRefill = false → t.aud.needsRefill = false) ∧ t.aud.samplesPlayed = s.aud.samplesPlayed ∧
      t.aud.underrunCount = s.aud.underrunCount ∧ (t.aud.state = .error → s.aud.state = .error) := by
  cases effect with
  | audInit attach => exact absurd rfl (notInit attach)
  | audStart => exact ⟨absurd rfl, rfl, id, rfl, rfl, nofun⟩
  | audStop => exact ⟨fun _ => rfl, rfl, id, rfl, rfl, nofun⟩
  | audFilled => exact ⟨fun _ => rfl, rfl, fun _ => rfl, rfl, rfl, id⟩
  | none | sampleStore | frameStore | dspInit | dspSwap | dspStartXfer | synWrite =>
    exact ⟨fun _ => rfl, rfl, id, rfl, rfl, id⟩
  | trig | audHt | audTc | audErr | dspDone | synTick => exact nomatch fg

theorem Effect.foregroundDsp {s t : State} {i : Instr} (effect : Effect s i t) (fg : i.port = .fg)
    (notInit : i ≠ .dspInit) :
    t.dsp.framesTransferred = s.dsp.framesTransferred ∧ (s.dsp.transferBusy = true → t.dsp.transferBusy = true) := by
  cases effect with
  | dspInit => exact absurd rfl notInit
  | dspStartXfer => exact ⟨rfl, fun _ => rfl⟩
  | none | audInit | audStart | audStop | audFilled | sampleStore | frameStore | dspSwap | synWrite => exact ⟨rfl, id⟩
  | trig | audHt | audTc | audErr | dspDone | synTick => exact nomatch fg

theorem exec_fg_sampleCount {i : Instr} {s t : State} (fg : i.port = .fg) (ran : exec i s = .next t)
    (notInit : ∀ w1 w2 w3, i ≠ .synInit w1 w2 w3) : SameSampleCount s t := by
  rcases exec_sameSampleCount_or i s with same |
    (⟨⟨w1, w2, w3, rfl⟩, -⟩ | ⟨-, ⟨cnt, rfl⟩ | ⟨-, rfl | rfl | ⟨rfl, -⟩⟩⟩)
  · exact same.of_eq_next ran
  · exact absurd rfl (notInit w1 w2 w3)
  all_goals exact nomatch fg

/-! ## The DAC output (R285) -/

theorem audEvent_dac (h : Half) (s : State) : (audEvent h s).dac = s.dac := by
  rw [audEvent_eq]
  rfl

theorem synTick_dac (cnt : BitVec 24) (s : State) : (synTick cnt s).dac = s.dac := by
  rw [synTick_eq]
  rfl

/-- The sequencer delivers the pair at the position, and the event it may raise delivers nothing. -/
theorem sequencerStep_dac (s : State) :
    (sequencerStep s).dac = s.dac ++ [⟨s.left s.aud.pos.toNat, s.right s.aud.pos.toNat⟩] := by
  rw [sequencerStep_eq]
  rcases raiseAtPosition_cases (movedOn s) with ⟨-, half⟩ | ⟨-, wrap⟩ | ⟨-, -, none⟩
  · rw [half, audEvent_dac]; rfl
  · rw [wrap, audEvent_dac]; rfl
  · rw [none]; rfl

theorem Effect.dac {s t : State} {i : Instr} (effect : Effect s i t)
    (noTrigger : ¬(i = .trig ∧ s.aud.state = .playing)) : t.dac = s.dac := by
  cases effect with
  | trig playing => exact absurd ⟨rfl, playing⟩ noTrigger
  | audHt => exact audEvent_dac .first s
  | audTc => exact audEvent_dac .second s
  | synTick cnt => exact synTick_dac cnt s
  | audInit attach => rw [State.setAud_dac, State.setSmp_dac]
  | none | audStart | audStop | audFilled | sampleStore | frameStore => rfl
  | dspInit | dspSwap | dspStartXfer | synWrite | audErr | dspDone => rfl

/-! ## The statements -/

/-- Settles O10: the three kinds of turn, by what the stream of the turn's port lets the block take. -/
theorem eventsComeBeforeTheForeground : Obligations.EventsComeBeforeTheForeground := by
  intro s ev fg rest
  refine ⟨fun turn presented => ?_, fun h post turn stream noAudio => ?_, fun _ _ => fetch_fg_turn⟩
  · obtain ⟨pre, h, post, stream, taken, overtaken, audioDue⟩ := takeEvent_cases (ev + 1) presented
    exact ⟨pre, h, post, stream, fetch_ev_turn turn taken, fun overtakes => ⟨overtaken, audioDue overtakes⟩⟩
  · rw [stream] at noAudio
    exact fetch_ev_turn turn (stream ▸ takeEvent_of_no_audio noAudio)

/-- Settles O11: the headers of the two kinds, and the choice of the port while an audio event is due. -/
theorem audioEventsComeBeforeDisplayEvents : Obligations.AudioEventsComeBeforeDisplayEvents := by
  refine ⟨isAudioEvent_iff_word, isDisplayEvent_iff_word, fun s ev fg rest turn audioDue => ?_⟩
  obtain ⟨pre, h, post, stream, taken, due, notDisplay, overtaken⟩ := takeEvent_of_audio audioDue
  exact ⟨pre, h, post, stream, Nat.le_of_lt_succ due, notDisplay, overtaken, fetch_ev_turn turn taken⟩

/-- Settles O12: an audio event ignores what a display event writes, and a display event reads and writes nothing
else. -/
theorem audioAndDisplayEventsCommute : Obligations.AudioAndDisplayEventsCommute := by
  intro a audio off d display s
  have onlyDisplay : OnlyDisplay d s := by
    revert d
    simp only [List.forall_mem_cons]
    exact ⟨dspDone_onlyDisplay s, xferRd_onlyDisplay off s, nofun⟩
  exact execAll_pair_comm (audioEvents_ignoreDisplay s a audio) onlyDisplay

/-- Settles O13: a quiet turn passes, a legal command is answered by its operation and an illegal one by the block. -/
theorem everyStepAnswersANextState : Obligations.EveryStepAnswersANextState := by
  intro s
  cases fetched : fetch s with
  | quiet t => exact ⟨t, step_of_fetch_quiet fetched⟩
  | command p ws t =>
    cases decoded : decode p ws with
    | ok i =>
      obtain ⟨u, -, ran, -⟩ := everyOperationAnswersOnce i t
      exact ⟨u, (step_of_fetch_command fetched decoded).trans ran⟩
    | error e => exact ⟨t.answer p .illegalOp 0, step_of_fetch_illegal fetched decoded⟩

/-- Settles O22: an operation that answers BAD_STATE has one of the causes, and each cause is answered so; the statement
lists the constructors of `BadStateCause` in their order. -/
theorem badStateCauses : Obligations.BadStateCauses := by
  intro i s
  constructor
  · intro ran
    cases badStateCause_of_exec ran <;> simp [*]
  · rintro (⟨⟨b, rfl⟩, c⟩ | ⟨rfl, c⟩ | ⟨rfl, c⟩ | ⟨rfl, c⟩ | ⟨rfl, c⟩ | ⟨⟨off, rfl⟩, c⟩ | ⟨rfl, c⟩ |
      ⟨⟨w1, w2, w3, rfl⟩, c⟩ | ⟨rfl, c⟩ | ⟨rfl, c⟩ | ⟨rfl, c⟩)
    all_goals refine exec_of_badStateCause ?_
    exacts [.audInit b c, .audStart c, .audStop c, .audErr c, .dspInit c, .xferRd off c, .dspDone c,
      .synInit w1 w2 w3 c, .synStart c, .synStop c, .synAframe c]

/-- Settles O23: an operation that answers INVALID_PARAM has one of the causes, and each cause is answered so. -/
theorem invalidParamCauses : Obligations.InvalidParamCauses := by
  intro i s
  constructor
  · intro ran
    cases invalidParamCause_of_exec ran with
    | synInit w1 w2 w3 reset noDivisor => exact .inl ⟨w1, w2, w3, rfl, reset, noDivisor⟩
    | fbWr addr byte beyond => exact .inr (.inl ⟨addr, byte, rfl, beyond⟩)
    | fbRd addr beyond => exact .inr (.inr (.inl ⟨addr, rfl, beyond⟩))
    | rdreg reg unlisted => exact .inr (.inr (.inr ⟨reg, rfl, unlisted⟩))
  · rintro (⟨w1, w2, w3, rfl, reset, noDivisor⟩ | ⟨addr, byte, rfl, beyond⟩ | ⟨addr, rfl, beyond⟩ |
      ⟨reg, rfl, unlisted⟩)
    all_goals refine exec_of_invalidParamCause ?_
    exacts [.synInit w1 w2 w3 reset noDivisor, .fbWr addr byte beyond, .fbRd addr beyond, .rdreg reg unlisted]

/-- Settles O25: what the effect of an event can write, unit by unit. -/
theorem eventPortWritesOnlyItsRegisters : Obligations.EventPortWritesOnlyItsRegisters := by
  intro i s t event ran
  have inputs := exec_keepsInputs ran
  obtain ⟨u, st, v, effect, rfl⟩ := exec_effect ran
  obtain ⟨⟨attached, refills, state, requested⟩, ⟨render, ready, transfer, rendered, idle⟩, syn, smp, fb⟩ :=
    effect.eventWrites event
  exact ⟨attached, refills, state, requested, render, ready, transfer, rendered, idle, syn, smp, fb, inputs⟩

/-- Settles O26: what the effect of a foreground operation can write, unit by unit. -/
theorem foregroundPortWritesOnlyItsRegisters : Obligations.ForegroundPortWritesOnlyItsRegisters := by
  intro i s t fg ran
  have inputs := exec_keepsInputs ran
  have count := exec_fg_sampleCount fg ran
  obtain ⟨u, st, v, effect, rfl⟩ := exec_effect ran
  have noTrigger : ¬(i = .trig ∧ s.aud.state = .playing) := by
    rintro ⟨rfl, -⟩
    exact nomatch fg
  exact ⟨effect.foregroundAud fg, effect.foregroundDsp fg, count, effect.dac noTrigger, inputs⟩

/-- Settles O27: a trigger in PLAYING delivers the sequencer's pair, and no other effect writes the output. -/
theorem dacRecordsComeFromTriggersAlone : Obligations.DacRecordsComeFromTriggersAlone := by
  intro i s t ran
  constructor
  · rintro ⟨rfl, playing⟩
    rw [exec_trig_of_playing playing] at ran
    cases ran
    exact sequencerStep_dac s
  · intro noTrigger
    obtain ⟨u, st, v, effect, rfl⟩ := exec_effect ran
    exact effect.dac noTrigger

end Sys2Proof.Machine
end

section
/-! PROOFS of the statements of spec/70_reset_and_hazards.md: the external reset, the hazard of a late acknowledgement,
and the foreground that draws in the render slot alone. -/

namespace Sys2Proof.Machine

/-! ## The external reset (R300) -/

theorem fetch_reset_due {s : State} {rest : List Due} (due : s.due = .reset :: rest) :
    fetch s = .quiet { s with due := rest }.applyReset := by
  unfold fetch
  rw [due]

theorem memRead_nil {w : Nat} (a : Nat) : memRead ([] : Mem w) a = 0 := rfl

/-! ## The audio events by instruction (R164, R165) -/

theorem audEvent_aud (h : Half) (s : State) : (audEvent h s).aud = s.aud.afterEvent h := by
  rw [audEvent_eq]
  rfl

theorem exec_audHt (s : State) : exec .audHt s = .next ((audEvent .first s).answer .ev .ok 0) := rfl

theorem exec_audTc (s : State) : exec .audTc s = .next ((audEvent .second s).answer .ev .ok 0) := rfl

/-- The one acknowledgement after both events clears the request of the second, whose half stays named (R308). -/
theorem execAll_audHt_audTc_audFilled (s : State) :
    ∃ t, execAll [.audHt, .audTc, .audFilled] s = .next t ∧
      t.aud = { (s.aud.afterEvent .first).afterEvent .second with
        needsRefill := false, refillCount := s.aud.refillCount + 1 } := by
  refine ⟨_, (execAll_cons (exec_audHt s)).trans ((execAll_cons (exec_audTc _)).trans
    (execAll_cons (exec_audFilled _))), ?_⟩
  simp [acknowledged, audEvent_aud]

/-! ## The slots of the framebuffer memory (R80, R83) -/

/-- The addresses of a slot are the 1024 from its base on. -/
theorem slotOfAddr_eq_iff (a : Nat) (slot : Slot) :
    slotOfAddr a = slot.val ↔ slotBase slot ≤ a ∧ a < slotBase slot + 1024 := by
  simp only [slotOfAddr, slotBase, Config.fbSize]
  omega

theorem slotOfAddr_slotBase_add (slot : Slot) {o : Nat} (inSlot : o < 1024) :
    slotOfAddr (slotBase slot + o) = slot.val :=
  (slotOfAddr_eq_iff _ slot).2 ⟨Nat.le_add_right _ _, Nat.add_lt_add_left inSlot _⟩

/-- Every byte of a slot lies in the framebuffer memory. -/
theorem inSpace_of_slotOfAddr_eq {a : Nat} {slot : Slot} (inSlot : slotOfAddr a = slot.val) : a < 3072 := by
  obtain ⟨-, below⟩ := (slotOfAddr_eq_iff a slot).1 inSlot
  simp only [slotBase, Config.fbSize] at below
  omega

/-- A write outside a slot leaves every byte of that slot as it was. -/
theorem frameByte_setFb_memWrite_of_outside (s : State) {a : Nat} {slot : Slot} (b : Byte)
    (outside : slotOfAddr a ≠ slot.val) {o : Nat} (inSlot : o < 1024) :
    (s.setFb (memWrite s.fb a b)).frameByte slot o = s.frameByte slot o := by
  have apart : slotBase slot + o ≠ a := fun same => outside (same ▸ slotOfAddr_slotBase_add slot inSlot)
  exact memRead_memWrite_other s.fb b apart

/-! ## The statements -/

/-- Settles O48: with distinct roles an address of the render slot lies outside the transfer slot. -/
theorem drawingInTheRenderSlotNeverTears : Obligations.DrawingInTheRenderSlotNeverTears := by
  rintro s addr b ⟨-, -, renderNeTransfer⟩ fromBase belowEnd
  have drawn : slotOfAddr addr.toNat = s.dsp.render.val := (slotOfAddr_eq_iff _ _).2 ⟨fromBase, belowEnd⟩
  have outside : slotOfAddr addr.toNat ≠ s.dsp.transfer.val := fun sent =>
    renderNeTransfer (Fin.ext (drawn.symm.trans sent))
  exact ⟨decide_eq_true fun _ => outside, _, exec_fbWr_of_inSpace b (inSpace_of_slotOfAddr_eq drawn), rfl,
    fun _ inSlot => frameByte_setFb_memWrite_of_outside s b outside inSlot⟩

/-- Settles O16: the reset is taken as it falls due, and only the ports are kept. -/
theorem resetEventRestoresTheResetState : Obligations.ResetEventRestoresTheResetState := by
  intro s rest due
  exact ⟨_, step_of_fetch_quiet (fetch_reset_due due), rfl, rfl, rfl, memRead_nil, memRead_nil,
    rfl, rfl, rfl, rfl, rfl⟩

/-- Settles O40: the second event finds the first one's request and counts one underrun; the third finds none. -/
theorem lateAcknowledgementSwallowsTheRequest : Obligations.LateAcknowledgementSwallowsTheRequest := by
  intro s noRequest
  obtain ⟨t, ran, aud⟩ := execAll_audHt_audTc_audFilled s
  have cleared : t.aud.needsRefill = false := by rw [aud]
  have oneUnderrun : t.aud.underrunCount = s.aud.underrunCount + 1 := by simp [aud, noRequest]
  have noUnderrun : (audEvent .first t).aud.underrunCount = t.aud.underrunCount := by simp [audEvent_aud, cleared]
  exact ⟨t, _, ran, cleared, by simp [aud], oneUnderrun, by rw [aud], exec_audHt t, noUnderrun⟩

end Sys2Proof.Machine
end
